-- ==== Sys2Proof/Word.lean ====
section
/-! DEFINITION. The widths of the machine's values: bytes, the 32-bit state words, the 64-bit bit counter, and
the two input ports (00_scope.md R8, R10; 10_state.md R29). -/

namespace Sys2Proof

/-- R10: "A byte is 8 bits". -/
abbrev Byte := BitVec 8

/-- R8, R11: the unsigned 32-bit word of the digest state; `+` on it wraps modulo 2^32. -/
abbrev Word := BitVec 32

/-- R8, R23: the 64-bit value of the bit counter. -/
abbrev Count := BitVec 64

/-- R29, R60: the 32-bit command word written to the CMD port (P0). -/
abbrev CmdWord := BitVec 32

/-- R29, R63: the 512 bits of the DATA port (P1), 64 byte lanes. -/
abbrev DataPort := BitVec 512

end Sys2Proof
end

