-- ==== Sys2Proof/Config.lean ====
section
/-! DEFINITION. What is fixed for one machine: its identity, its six ports, the largest chunk, and the two
parameters the spec leaves OPEN (00_scope.md R2, R9; 10_state.md R29). The parameters that the algorithm fixes
(R8) are the types of Word.lean and the tables of Machine/Compressor.lean. -/

namespace Sys2Proof

/-- R29: the four output ports P2 to P5, read-only views of the state. -/
inductive OutPort where
  /-- P2, RESP: the response code of the last command. -/
  | resp
  /-- P3, STATUS_OUT: FIN and BUF_LEN. -/
  | status
  /-- P4, CNT_OUT: the bit counter. -/
  | cnt
  /-- P5, DIGEST_OUT: the serialized digest state. -/
  | digest
  deriving DecidableEq, Repr

/-- R29: the six ports of the block. -/
inductive Port where
  /-- P0, CMD: the command word, host to block. -/
  | cmd
  /-- P1, DATA: 64 byte lanes, host to block. -/
  | data
  /-- P2 to P5: block to host. -/
  | out (p : OutPort)
  deriving DecidableEq, Repr

/-- R29: the width of an output port in bits. -/
def OutPort.width : OutPort → Nat
  | .resp => 4
  | .status => 32
  | .cnt => 64
  | .digest => 128

/-- R29: the width of a port in bits. -/
def Port.width : Port → Nat
  | .cmd => 32
  | .data => 512
  | .out p => p.width

/-- R2: the identity string, the spec's own label. -/
def Config.identity : String := "MD4-CORE/XWwalker-ppp/cmdset-1"

/-- R9: MAX_CHUNK, the largest number of bytes one UPDATE carries. -/
@[simp] abbrev Config.maxChunk : Nat := 64

/-- R9, R236: the OPEN parameter CMD_LATENCY, the time a command takes. No rule depends on it, so nothing in the
model reads it (log entry 13). -/
opaque Config.cmdLatency : Nat

/-- R9, R48: the OPEN parameter PORT_MAP, where (if anywhere) a platform places each port in a host address space.
The contents of the ports do not depend on it, so nothing in the model reads it (log entry 13). -/
opaque Config.portMap : Port → Option Nat

end Sys2Proof
end

