-- ==== Sys2Proof/Syntax.lean ====
section
/-! DEFINITION. The block's instructions: the three commands of spec/opcode_table.json (30_encoding.md R62). -/

namespace Sys2Proof

/-- R62, R160: one constructor per row of the opcode table. The data bytes of UPDATE are no part of the command
word: they stand on the DATA port (R63). -/
inductive Instr where
  /-- INIT (R161): start a new session. -/
  | init
  /-- UPDATE (R162, R163) with its LEN field (R64), the byte count. -/
  | update (len : BitVec 7)
  /-- FINAL (R164, R165): pad, compress and finish the session. -/
  | final
  deriving DecidableEq, Repr

end Sys2Proof
end

