-- ==== Sys2Proof/WellFormed.lean ====
section
/-! DEFINITION. Which instruction terms are commands of the block: an UPDATE carries at most MAX_CHUNK bytes
(30_encoding.md R64). -/

namespace Sys2Proof

/-- R64, R66: "For UPDATE the legal values are 0 to 64"; INIT and FINAL have no operand. -/
def Instr.wf : Instr → Bool
  | .init => true
  | .update len => Nat.ble len.toNat Config.maxChunk
  | .final => true

/-- The instruction is one the command set has. -/
abbrev Instr.WellFormed (i : Instr) : Prop := i.wf = true

end Sys2Proof
end

