-- ==== Sys2Proof/Decode.lean ====
section
/-! DEFINITION. The command word: its fields, its legality, the decoder (total, refusing by name) and the encoder
(30_encoding.md R61 to R69). -/

namespace Sys2Proof

/-- R61: OPC is bits [3:0] of the command word. -/
def opcField (w : CmdWord) : BitVec 4 := w.extractLsb 3 0

/-- R61, R64: LEN is bits [10:4], an unsigned byte count. -/
def lenField (w : CmdWord) : BitVec 7 := w.extractLsb 10 4

/-- R61, R65: RSVD is bits [31:11], which must be 0. -/
def rsvdField (w : CmdWord) : BitVec 21 := w.extractLsb 31 11

/-- R66: `Legal(cmd)`, in the rule's own form. -/
abbrev Legal (w : CmdWord) : Prop :=
  w.extractLsb 31 11 = 0#21 ∧
    ((w.extractLsb 3 0 = 0x1#4 ∧ w.extractLsb 10 4 = 0#7)
      ∨ (w.extractLsb 3 0 = 0x2#4 ∧ (w.extractLsb 10 4).toNat ≤ 64)
      ∨ (w.extractLsb 3 0 = 0x3#4 ∧ w.extractLsb 10 4 = 0#7))

/-- R201: the four causes for which a command word is refused. All four give the one response BAD_COMMAND, so the
order in which the decoder looks for them cannot be observed (log entry 6). -/
inductive DecodeError where
  /-- Cause 2: a bit of `cmd[31:11]` is 1. -/
  | reservedBits
  /-- Cause 1: OPC is 0x0 or 0x4..0xF. -/
  | reservedOpcode
  /-- Cause 3: UPDATE with LEN above 64. -/
  | chunkTooLong
  /-- Cause 4: INIT or FINAL with LEN other than 0. -/
  | lenNotZero
  deriving DecidableEq, Repr

/-- R62, R66, R67, R69: the decoder reads exactly one word; no mode changes it. -/
def decode (w : CmdWord) : Except DecodeError Instr :=
  if rsvdField w ≠ 0 then .error .reservedBits
  else if opcField w = 0x1 then
    if lenField w = 0 then .ok .init else .error .lenNotZero
  else if opcField w = 0x2 then
    if (lenField w).toNat ≤ Config.maxChunk then .ok (.update (lenField w)) else .error .chunkTooLong
  else if opcField w = 0x3 then
    if lenField w = 0 then .ok .final else .error .lenNotZero
  else .error .reservedOpcode

/-- R61: the word with the given OPC and LEN fields and RSVD zero. -/
def packWord (opc : BitVec 4) (len : BitVec 7) : CmdWord := 0#21 ++ len ++ opc

/-- R62, R68: the command word of an instruction. -/
def encode : Instr → CmdWord
  | .init => packWord 0x1 0
  | .update len => packWord 0x2 len
  | .final => packWord 0x3 0

/-- The host's reading of an opcode-table row: the instruction the decoder gives for the word whose low `nbits`
bits are those of `w` and whose other bits are 0. Every command is one 32-bit word (R60), so the row's bits are
the command word's own. -/
def decodeTableWord (nbits w : Nat) : Option Instr :=
  match decode (BitVec.ofNat 32 (w % 2 ^ nbits)) with
  | .ok i => some i
  | .error _ => none

end Sys2Proof
end

