-- ==== Sys2Proof/Machine/Bytes.lean ====
section
/-! DEFINITION. Rotation and little-endian byte order (00_scope.md R12, R13). -/

namespace Sys2Proof.Machine

/-- R12: `rotl32(v, s) = (v << s) | (v >> (32 - s))`, for 0 < s < 32. -/
def rotl32 (v : Word) (s : Nat) : Word := (v <<< s) ||| (v >>> (32 - s))

/-- R13: the word whose bytes are b0 (least significant) to b3. -/
def le32 (b0 b1 b2 b3 : Byte) : Word :=
  b0.setWidth 32 ||| (b1.setWidth 32 <<< 8) ||| (b2.setWidth 32 <<< 16) ||| (b3.setWidth 32 <<< 24)

/-- R13: the four bytes of a word, least significant first. -/
def bytesLe32 (w : Word) : List Byte :=
  [w.extractLsb 7 0, w.extractLsb 15 8, w.extractLsb 23 16, w.extractLsb 31 24]

/-- R13: byte k of a 64-bit value, `v[8k+7:8k]`. -/
def countByte (v : Count) (k : Nat) : Byte := v.extractLsb' (8 * k) 8

/-- R13: the eight bytes of a 64-bit value, least significant first. -/
def bytesLe64 (v : Count) : List Byte := (List.range 8).map (countByte v)

/-- R13: the 64-bit value of a byte sequence, the byte of lowest index least significant. -/
def le64 : List Byte → Count
  | [] => 0
  | c :: cs => c.setWidth 64 + le64 cs * 256

/-- A run of `n` zero bytes (R144 `zeros`). -/
def zeros (n : Nat) : List Byte := List.replicate n 0

end Sys2Proof.Machine
end

