-- ==== Sys2Proof/Machine/BitCounter.lean ====
section
/-! DEFINITION. The BitCounter's add, in the two forms the spec gives (41_bit_counter.md R130 to R132). -/

namespace Sys2Proof.Machine

/-- R131, R132: `CntAdd(k)`, arithmetic form: `CNT <- (CNT + 8 * k) mod 2^64`, k a count of bytes. -/
def cntAdd (cnt : Count) (k : Nat) : Count := cnt + BitVec.ofNat 64 (8 * k)

/-- R131: the byte-serial carry chain over the bytes of the counter, least significant first. The carry left after
the last byte is discarded (R132). -/
def rippleAdd : List Byte → Nat → List Byte
  | [], _ => []
  | c :: cs, carry => BitVec.ofNat 8 (c.toNat + carry) :: rippleAdd cs ((c.toNat + carry) / 256)

/-- R131: `CntAdd(k)`, byte-serial form. -/
def cntAddSerial (cnt : Count) (k : Nat) : Count := le64 (rippleAdd (bytesLe64 cnt) (8 * k))

end Sys2Proof.Machine
end

