-- ==== Sys2Proof/Machine/Compressor.lean ====
section
/-! DEFINITION. The BlockCompressor: tables, mixing functions, the step, the three rounds and the feed-forward
(40_block_compressor.md R100 to R111; 10_state.md R21, R35). -/

namespace Sys2Proof.Machine

/-- R21: the four words A, B, C, D. The working variables of a compression (R34, R108) have the same shape. -/
structure DigestState where
  a : Word
  b : Word
  c : Word
  d : Word
  deriving DecidableEq, Repr

/-- R110: the three rounds, in their order. -/
inductive Round where
  | one
  | two
  | three
  deriving DecidableEq, Repr

/-- R21: the initial constants IV. -/
def iv : DigestState :=
  { a := 0x67452301, b := 0xefcdab89, c := 0x98badcfe, d := 0x10325476 }

/-- R102: round 1 mixing, bitwise select. -/
def mixF (x y z : Word) : Word := (x &&& y) ||| (~~~x &&& z)

/-- R103: round 2 mixing, bitwise majority. -/
def mixG (x y z : Word) : Word := (x &&& y) ||| (x &&& z) ||| (y &&& z)

/-- R104: round 3 mixing, bitwise parity. -/
def mixH (x y z : Word) : Word := x ^^^ y ^^^ z

/-- R108: MIX_r. -/
def mix : Round → Word → Word → Word → Word
  | .one => mixF
  | .two => mixG
  | .three => mixH

/-- R105: K_r. Round 1's constant is 0 by the spec's reading (93_implementation_defined.md G2). -/
def roundConst : Round → Word
  | .one => 0x00000000
  | .two => 0x5A827999
  | .three => 0x6ED9EBA1

/-- R106: ORD_r, the message word each step of a round uses. -/
def wordOrder : Round → List Nat
  | .one => [0, 1, 2, 3, 4, 5, 6, 7, 8, 9, 10, 11, 12, 13, 14, 15]
  | .two => [0, 4, 8, 12, 1, 5, 9, 13, 2, 6, 10, 14, 3, 7, 11, 15]
  | .three => [0, 8, 4, 12, 2, 10, 6, 14, 1, 9, 5, 13, 3, 11, 7, 15]

/-- R107: SH_r, the cycle of four rotation amounts of a round. -/
def shiftCycle : Round → List Nat
  | .one => [3, 7, 11, 19]
  | .two => [3, 5, 9, 13]
  | .three => [3, 9, 11, 15]

/-- R106: `ORD_r[j]`. -/
def wordIndex (r : Round) (j : Nat) : Nat := (wordOrder r).getD j 0

/-- R107: `SH_r[j mod 4]`. -/
def shiftAmount (r : Round) (j : Nat) : Nat := (shiftCycle r).getD (j % 4) 0

/-- R42, R101: message word i of a block. -/
def messageWord (blk : List Byte) (i : Nat) : Word :=
  le32 (blk.getD (4 * i) 0) (blk.getD (4 * i + 1) 0) (blk.getD (4 * i + 2) 0) (blk.getD (4 * i + 3) 0)

/-- R101: the 16 message words of a block. -/
def messageWords (blk : List Byte) : List Word := (List.range 16).map (messageWord blk)

/-- R108: the rotated sum a step writes. -/
def stepValue (r : Round) (j : Nat) (x : List Word) (t : DigestState) : Word :=
  rotl32 (t.a + mix r t.b t.c t.d + x.getD (wordIndex r j) 0 + roundConst r) (shiftAmount r j)

/-- R108: one step, with the role rotation `(a, b, c, d) <- (d, a', b, c)`. -/
def mixStep (r : Round) (x : List Word) (t : DigestState) (j : Nat) : DigestState :=
  { a := t.d, b := stepValue r j x t, c := t.b, d := t.c }

/-- R110: the 16 steps of a round. -/
def mixRound (x : List Word) (t : DigestState) (r : Round) : DigestState :=
  (List.range 16).foldl (mixStep r x) t

/-- R110: the 48 steps, rounds in the order 1, 2, 3. -/
def mixing (x : List Word) (t : DigestState) : DigestState :=
  [Round.one, Round.two, Round.three].foldl (mixRound x) t

/-- R100, R111: the next digest state, with the feed-forward. The spec calls it for blocks of exactly 64 bytes
only; `State.compressBlock` (Machine/Ops.lean) is the one place the machine calls it, and checks that (R205). -/
def compress (ds : DigestState) (blk : List Byte) : DigestState :=
  let t := mixing (messageWords blk) ds
  { a := ds.a + t.a, b := ds.b + t.b, c := ds.c + t.c, d := ds.d + t.d }

/-! R109, R112: the unrolled form, in which each step updates one named variable in place. -/

/-- R109: a row of the full schedule: the round it belongs to, the index of the message word and the shift. Row k
updates the variable `(A, D, C, B)[k mod 4]`. -/
structure ScheduleRow where
  round : Round
  word  : Nat
  shift : Nat
  deriving DecidableEq, Repr

/-- R109: one in-place update of the named variable number `k mod 4` in the order A, D, C, B, mixing the other three
in the order the rule lists. -/
def namedStep (x : List Word) (t : DigestState) (k : Nat) (row : ScheduleRow) : DigestState :=
  let new (v p q r : Word) : Word := rotl32 (v + mix row.round p q r + x.getD row.word 0 + roundConst row.round) row.shift
  match k % 4 with
  | 0 => { t with a := new t.a t.b t.c t.d }
  | 1 => { t with d := new t.d t.a t.b t.c }
  | 2 => { t with c := new t.c t.d t.a t.b }
  | _ => { t with b := new t.b t.c t.d t.a }

/-- R109: rows 0 to 15 of the schedule. -/
def scheduleOne : List ScheduleRow :=
  [⟨.one, 0, 3⟩, ⟨.one, 1, 7⟩, ⟨.one, 2, 11⟩, ⟨.one, 3, 19⟩, ⟨.one, 4, 3⟩, ⟨.one, 5, 7⟩, ⟨.one, 6, 11⟩, ⟨.one, 7, 19⟩,
   ⟨.one, 8, 3⟩, ⟨.one, 9, 7⟩, ⟨.one, 10, 11⟩, ⟨.one, 11, 19⟩, ⟨.one, 12, 3⟩, ⟨.one, 13, 7⟩, ⟨.one, 14, 11⟩, ⟨.one, 15, 19⟩]

/-- R109: rows 16 to 31 of the schedule. -/
def scheduleTwo : List ScheduleRow :=
  [⟨.two, 0, 3⟩, ⟨.two, 4, 5⟩, ⟨.two, 8, 9⟩, ⟨.two, 12, 13⟩, ⟨.two, 1, 3⟩, ⟨.two, 5, 5⟩, ⟨.two, 9, 9⟩, ⟨.two, 13, 13⟩,
   ⟨.two, 2, 3⟩, ⟨.two, 6, 5⟩, ⟨.two, 10, 9⟩, ⟨.two, 14, 13⟩, ⟨.two, 3, 3⟩, ⟨.two, 7, 5⟩, ⟨.two, 11, 9⟩, ⟨.two, 15, 13⟩]

/-- R109: rows 32 to 47 of the schedule. -/
def scheduleThree : List ScheduleRow :=
  [⟨.three, 0, 3⟩, ⟨.three, 8, 9⟩, ⟨.three, 4, 11⟩, ⟨.three, 12, 15⟩, ⟨.three, 2, 3⟩, ⟨.three, 10, 9⟩, ⟨.three, 6, 11⟩, ⟨.three, 14, 15⟩,
   ⟨.three, 1, 3⟩, ⟨.three, 9, 9⟩, ⟨.three, 5, 11⟩, ⟨.three, 13, 15⟩, ⟨.three, 3, 3⟩, ⟨.three, 11, 9⟩, ⟨.three, 7, 11⟩, ⟨.three, 15, 15⟩]

/-- R109: the 48 rows. -/
def schedule : List ScheduleRow := scheduleOne ++ scheduleTwo ++ scheduleThree

/-- R109: run schedule rows, the first of them being row number `k`. -/
def runSchedule (x : List Word) : Nat → List ScheduleRow → DigestState → DigestState
  | _, [], t => t
  | k, row :: rows, t => runSchedule x (k + 1) rows (namedStep x t k row)

end Sys2Proof.Machine
end

