-- ==== Sys2Proof/Machine/State.lean ====
section
/-! DEFINITION. The state of one block instance, what the host offers it, the ways a step can stop, and reset
(10_state.md R20 to R37; 70_reset_and_hazards.md R230). -/

namespace Sys2Proof.Machine

/-- R25: the SessionStatus, which STATUS_OUT shows as FIN (0 Active, 1 Finalized). -/
inductive SessionStatus where
  | active
  | finalized
  deriving DecidableEq, Repr

/-- R33, R200: the response codes. Codes 3 to 15 are never produced, so the type omits them (93 I10). -/
inductive Resp where
  /-- 0, OK. -/
  | ok
  /-- 1, ALREADY_FINALIZED. -/
  | alreadyFinalized
  /-- 2, BAD_COMMAND. -/
  | badCommand
  deriving DecidableEq, Repr

/-- What the host does to the block, one event at a time (R50: "Commands take effect in the order the host issues
them"). The events are the model's own way of putting the outside world in front of the step (log entry 1). -/
inductive HostEvent where
  /-- R60 step 1: the host places a value on the DATA port. -/
  | driveData (d : DataPort)
  /-- R60 step 2: the host writes the CMD port, which starts a command. -/
  | writeCmd (w : CmdWord)
  /-- R29, R47: the host reads an output port. -/
  | readPort (p : OutPort)
  /-- R230: a hardware reset, between commands. -/
  | reset
  /-- R231: the host writes CMD, and a reset arrives before that command completes (log entry 11). -/
  | resetDuring (w : CmdWord)
  /-- R233: the host writes CMD while the command before it is still in progress, which the spec forbids the host
  and for which the model has no next state (log entry 10). -/
  | writeCmdBusy (w : CmdWord)
  deriving DecidableEq, Repr

/-- The state. `ds`, `cnt`, `buf` and `fin` are the architectural state of R20; `resp` is the RESP port kept as state
(R33 allows it); `dataIn` and `inputs` are the host's side of the interface, the model's own fields (log entries 1, 2). -/
structure State where
  /-- R21: DigestState `DS[0..3]`. -/
  ds     : DigestState
  /-- R23: BitCounter `CNT`. -/
  cnt    : Count
  /-- R24: PendingBuffer `BUF`, oldest byte first; `BUF_LEN` is its length. -/
  buf    : List Byte
  /-- R25: SessionStatus `FIN`. -/
  fin    : SessionStatus
  /-- R33: the response of the most recent command. -/
  resp   : Resp
  /-- R63: what the host drives on the DATA port now. -/
  dataIn : DataPort
  /-- R46, R50: what the host does next, oldest first. -/
  inputs : List HostEvent
  deriving DecidableEq, Repr

/-- Why the machine stops. Neither reason is reached by a serialized host from reset. -/
inductive Fault where
  /-- R205, 92 D31: the compressor was called with a block that is not 64 bytes. Raised by `State.compressBlock`, and
  only from states that break R36 (a pending buffer longer than 63 bytes at FINAL). Safe: the spec asks for a fault. -/
  | oversizedChunk
  /-- R233, 93 I15: CMD was written while a command is in progress. Raised by `step` on the event
  `HostEvent.writeCmdBusy`. Safe: the spec gives this no step. -/
  | commandWhileBusy
  deriving DecidableEq, Repr

/-- Why the model gives an instruction no meaning. -/
inductive Refusal where
  /-- The instruction has no meaning yet. Raised by no arm of `exec`: all three commands have theirs. Safe. -/
  | notModelled (mnemonic : String)
  deriving DecidableEq, Repr

/-- R37, R230: the state right after a hardware reset. The host's side holds nothing: no event is waiting (log
entry 1) and the DATA port, which holds no state (R63), is taken as all zeros (log entry 2). -/
def State.reset : State :=
  { ds := iv, cnt := 0, buf := [], fin := .active, resp := .ok, dataIn := 0, inputs := [] }

end Sys2Proof.Machine
end

