-- ==== Sys2Proof/Machine/Flags.lean ====
section
/-! DEFINITION. The one status flag, FIN, and the register that shows it, STATUS_OUT (10_state.md R25, R28, R30). -/

namespace Sys2Proof.Machine

/-- R25: FIN as a bit: 0 Active, 1 Finalized. -/
def SessionStatus.bit : SessionStatus → BitVec 1
  | .active => 0
  | .finalized => 1

/-- R30: the BUF_LEN field, six bits wide (log entry 9 on buffers longer than 63 bytes). -/
def State.bufLenField (s : State) : BitVec 6 := BitVec.ofNat 6 s.buf.length

/-- R30: `STATUS_OUT = zext_32(FIN) | (zext_32(BUF_LEN) << 8)`. -/
def State.statusOut (s : State) : BitVec 32 := s.fin.bit.setWidth 32 ||| (s.bufLenField.setWidth 32 <<< 8)

end Sys2Proof.Machine
end

