-- ==== Sys2Proof/Machine/Operands.lean ====
section
/-! DEFINITION. The one operand form: the data bytes of UPDATE, lanes 0 to LEN-1 of the DATA port
(30_encoding.md R63, R64; 20_memory.md R45). -/

namespace Sys2Proof.Machine

/-- R45, R63: byte lane k of the DATA port, `DATA[8k+7:8k]`. -/
def dataByte (d : DataPort) (k : Nat) : Byte := d.extractLsb' (8 * k) 8

/-- R63: the bytes an UPDATE of byte count `len` reads, lane 0 first. -/
def dataBytes (d : DataPort) (len : Nat) : List Byte := (List.range len).map (dataByte d)

end Sys2Proof.Machine
end

