-- ==== Sys2Proof/Machine/Padding.lean ====
section
/-! DEFINITION. The padding and finalization engine's block former and the digest's serialization
(42_padding_finalizer.md R140 to R147). -/

namespace Sys2Proof.Machine

/-- R141: the marker byte, "a single 1 bit, then zeros". -/
def marker : Byte := 0x80

/-- R144: `buf ++ [0x80] ++ zeros(63 - n)`. -/
def firstPadBlock (buf : List Byte) : List Byte := buf ++ marker :: zeros (63 - buf.length)

/-- R142 to R144: `PadBlocks(buf, L)`. One block when at most 55 bytes are left over, else two; the length field is
in the last block only (90_conflicts.md C7). The rule requires at most 63 bytes of `buf`; for more, the first block
is no 64-byte block and compressing it faults (R205, log entry 7). -/
def padBlocks (buf : List Byte) (l : Count) : List (List Byte) :=
  if buf.length ≤ 55 then [(firstPadBlock buf).take 56 ++ bytesLe64 l]
  else [firstPadBlock buf, zeros 56 ++ bytesLe64 l]

/-- R44, R146: the 16 digest bytes of a digest state. -/
def serialize (ds : DigestState) : List Byte :=
  bytesLe32 ds.a ++ bytesLe32 ds.b ++ bytesLe32 ds.c ++ bytesLe32 ds.d

/-- R147 (informative; no port produces text): the lowercase hex digits of a byte sequence, high nibble first. -/
def hexRender (bs : List Byte) : List Char :=
  bs.flatMap fun b => [Nat.digitChar (b.toNat / 16), Nat.digitChar (b.toNat % 16)]

end Sys2Proof.Machine
end

