-- ==== Sys2Proof/Machine/Ops.lean ====
section
/-! DEFINITION. The named operations on the state that the commands share: one update per field, responding
(the block's only error mechanism: 00_scope.md R14, 60_exceptions.md R208), loading the session's initial values,
compressing a block into DS, and slicing full blocks off the pending buffer. -/

namespace Sys2Proof.Machine

/-- Write `DS`. -/
def State.withDs (s : State) (ds : DigestState) : State := { s with ds := ds }

/-- Write `CNT`. -/
def State.withCnt (s : State) (cnt : Count) : State := { s with cnt := cnt }

/-- Write `BUF`. -/
def State.withBuf (s : State) (buf : List Byte) : State := { s with buf := buf }

/-- Write `FIN`. -/
def State.withFin (s : State) (fin : SessionStatus) : State := { s with fin := fin }

/-- R14 `respond CODE`: end the command with a response code. No error records anything else, saves anything or
transfers control (R200, R208), so this is the whole of "taking an exception" in this block, and there is nothing
to return from (R209). -/
def State.respond (s : State) (r : Resp) : State := { s with resp := r }

/-- The host drives the DATA port. -/
def State.withData (s : State) (d : DataPort) : State := { s with dataIn := d }

/-- The events that the host has still to deliver. -/
def State.withInputs (s : State) (es : List HostEvent) : State := { s with inputs := es }

/-- R161, R230: the values that INIT and reset give the session. -/
def State.loadInitial (s : State) : State := (((s.withDs iv).withCnt 0).withBuf []).withFin .active

/-- R230: a hardware reset puts every item to its R37 value, with RESP reading 0, and changes nothing outside the
block (the host's side stands). -/
def State.hardReset (s : State) : State := s.loadInitial.respond .ok

/-- R131: `CntAdd(k)` on the state. -/
def State.countBytes (s : State) (k : Nat) : State := s.withCnt (cntAdd s.cnt k)

/-- R162: append the first `len` lanes of the DATA port to the pending buffer. -/
def State.appendData (s : State) (len : Nat) : State := s.withBuf (s.buf ++ dataBytes s.dataIn len)

/-- R100, R205: `DS <- Compress(DS, blk)`; any other block length than 64 is the OversizedChunk fault. -/
def State.compressBlock (s : State) (blk : List Byte) : Except Fault State :=
  if blk.length = 64 then .ok (s.withDs (compress s.ds blk)) else .error .oversizedChunk

/-- R145: compress the blocks in order. -/
def State.compressBlocks (s : State) : List (List Byte) → Except Fault State
  | [] => .ok s
  | blk :: blks =>
    match s.compressBlock blk with
    | .ok t => t.compressBlocks blks
    | .error f => .error f

/-- R162: the loop body, `n` times: compress the first 64 bytes of the buffer, count them, and keep the rest. -/
def State.sliceBlocks (s : State) : Nat → Except Fault State
  | 0 => .ok s
  | n + 1 =>
    match s.compressBlock (s.buf.take 64) with
    | .ok t => ((t.countBytes 64).withBuf (t.buf.drop 64)).sliceBlocks n
    | .error f => .error f

/-- R162: `while |BUF| >= 64`, which runs its body once for each full block the buffer holds. In the states of R36
that is at most once; log entry 8 on the others. -/
def State.absorb (s : State) : Except Fault State := s.sliceBlocks (s.buf.length / 64)

/-- The outcome of a command's work. -/
def finish : Except Fault State → Host.Outcome State Fault Refusal
  | .ok s => .next s
  | .error f => .fault f

end Sys2Proof.Machine
end

