-- ==== Sys2Proof/Machine/Session.lean ====
section
/-! DEFINITION. The meanings of the three commands (43_session_commands.md R161 to R165). -/

namespace Sys2Proof.Machine

/-- R161: INIT, in either status. -/
def execInit (s : State) : Host.Outcome State Fault Refusal := .next (s.loadInitial.respond .ok)

/-- R162: UPDATE in the Active state. -/
def updateActive (len : Nat) (s : State) : Except Fault State :=
  (s.appendData len).absorb.map (·.respond .ok)

/-- R163: UPDATE in the Finalized state writes no state; only the response tells empty from non-empty. -/
def updateFinalized (len : Nat) (s : State) : State :=
  s.respond (if len = 0 then .ok else .alreadyFinalized)

/-- R162, R163, R204: UPDATE. A byte count above MAX_CHUNK answers BAD_COMMAND in every status (R201 cause 3); the
decoder never gives one, so that branch is for ill-formed terms (log entry 5). -/
def execUpdate (len : BitVec 7) (s : State) : Host.Outcome State Fault Refusal :=
  if Config.maxChunk < len.toNat then .next (s.respond .badCommand)
  else
    match s.fin with
    | .active => finish (updateActive len.toNat s)
    | .finalized => .next (updateFinalized len.toNat s)

/-- R164: the end of FINAL after the padding blocks are compressed. -/
def State.closeSession (s : State) : State := ((s.withBuf []).withFin .finalized).respond .ok

/-- R164: FINAL in the Active state: count the leftover bytes, then form the padding with the new count and compress
it (90_conflicts.md C1). -/
def finalActive (s : State) : Except Fault State :=
  let counted := s.countBytes s.buf.length
  (counted.compressBlocks (padBlocks counted.buf counted.cnt)).map State.closeSession

/-- R164, R165: FINAL. In the Finalized state it is idempotent: OK, and no state written. -/
def execFinal (s : State) : Host.Outcome State Fault Refusal :=
  match s.fin with
  | .active => finish (finalActive s)
  | .finalized => .next (s.respond .ok)

end Sys2Proof.Machine
end

