-- ==== Sys2Proof/Machine/Execute.lean ====
section
/-! DEFINITION. Executing one command word, and delivering one host event (43_session_commands.md R160;
60_exceptions.md R201, R202; 70_reset_and_hazards.md R230, R231, R233). -/

namespace Sys2Proof.Machine

/-- R160 `Execute(cmd, DATA)`: an illegal word answers BAD_COMMAND and writes no state (R202), whatever the status
(R204); a legal one runs. -/
def execute (w : CmdWord) (s : State) : Host.Outcome State Fault Refusal :=
  match decode w with
  | .ok i => exec i s
  | .error _ => .next (s.respond .badCommand)

/-- What one host event does to the block. -/
def deliver (e : HostEvent) (s : State) : Host.Outcome State Fault Refusal :=
  match e with
  | .driveData d => .next (s.withData d)
  | .writeCmd w => execute w s
  | .readPort _ => .next s
  | .reset => .next s.hardReset
  | .resetDuring _ => .next s.hardReset
  | .writeCmdBusy _ => .fault .commandWhileBusy

end Sys2Proof.Machine
end

