-- ==== Sys2Proof/Machine/Step.lean ====
section
/-! DEFINITION. One step: the block takes the host's next event, or idles (20_memory.md R50; 60_exceptions.md R216). -/

namespace Sys2Proof.Machine

/-- R7, R50, R216: one atomic transaction. With no event waiting the block is idle, and idling changes nothing. -/
def step (s : State) : Host.Outcome State Fault Refusal :=
  match s.inputs with
  | [] => .next s
  | e :: es => deliver e (s.withInputs es)

/-- The state in which the host's next action is to write the given word to the CMD port. The block fetches nothing
(R40, R53): a command comes from the host, and this stands for its CMD write (log entry 1). -/
def State.withFetchWord (s : State) (nbits w : Nat) : State :=
  s.withInputs (.writeCmd (BitVec.ofNat 32 (w % 2 ^ nbits)) :: s.inputs)

end Sys2Proof.Machine
end

