-- ==== Sys2Proof/Machine/Assembler.lean ====
section
/-! DEFINITION. The host's side: the event sequences of commands and pseudo-instructions, and the assembler that
makes them from source lines (30_encoding.md R60, R68, R70 to R72). The step does not use any of it. -/

namespace Sys2Proof.Machine

/-- R45, R63: the DATA port value whose lane k is byte k of the sequence; further lanes are zero (log entry 15: UPDATE
never reads them). -/
def packLanes : List Byte → DataPort
  | [] => 0
  | b :: bs => b.setWidth 512 ||| (packLanes bs <<< 8)

/-- R60: the events of one instruction without data bytes: a CMD write. -/
def issue (i : Instr) : List HostEvent := [.writeCmd (encode i)]

/-- R60: the events of one UPDATE: the bytes on DATA, then the CMD write. -/
def issueUpdate (bs : List Byte) : List HostEvent :=
  .driveData (packLanes bs) :: issue (.update (BitVec.ofNat 7 bs.length))

/-- R72: NOP is `UPDATE 0`. -/
def issueNop : List HostEvent := issue (.update 0)

/-- R72: the chunks of ABSORB: consecutive 64-byte chunks, and one of the rest if there is a rest. -/
def absorbChunks (m : List Byte) : List (List Byte) :=
  fullChunks (m.length / 64) m
where
  /-- The next `k` full chunks, then the rest. -/
  fullChunks : Nat → List Byte → List (List Byte)
    | 0, rest => if rest = [] then [] else [rest]
    | k + 1, rest => rest.take 64 :: fullChunks k (rest.drop 64)

/-- R72: the UPDATE commands of ABSORB. -/
def issueAbsorb (m : List Byte) : List HostEvent := (absorbChunks m).flatMap issueUpdate

/-- R72: `HASH m` is INIT, `ABSORB m`, FINAL. -/
def issueHash (m : List Byte) : List HostEvent := issue .init ++ issueAbsorb m ++ issue .final

/-- Why the assembler refuses a line. -/
inductive AsmError where
  /-- A character or token the syntax has no place for. -/
  | badToken
  /-- An unknown mnemonic or a wrong operand shape. -/
  | badLine
  /-- R70: the byte count is not L. -/
  | byteCountMismatch
  /-- R70: L is above 64. -/
  | chunkTooLong
  deriving DecidableEq, Repr

/-- R70 to R72: a line of source, read. -/
inductive AsmLine where
  /-- No command: an empty line or a comment only (log entry 16). -/
  | blank
  | init
  | final
  | nop
  | update (len : Nat) (bs : List Byte)
  | word (w : CmdWord)
  | absorb (m : List Byte)
  | hash (m : List Byte)
  deriving DecidableEq, Repr

/-- R70 to R72: the events a line assembles to. -/
def assembleLine : AsmLine → Except AsmError (List HostEvent)
  | .blank => .ok []
  | .init => .ok (issue .init)
  | .final => .ok (issue .final)
  | .nop => .ok issueNop
  | .update len bs =>
    if Config.maxChunk < len then .error .chunkTooLong
    else if bs.length ≠ len then .error .byteCountMismatch
    else if len = 0 then .ok issueNop
    else .ok (issueUpdate bs)
  | .word w => .ok [.writeCmd w]
  | .absorb m => .ok (issueAbsorb m)
  | .hash m => .ok (issueHash m)

/-! The text of a line. Every detail that R70 to R72 leave open is named in log entry 16. -/

/-- A token of a line. Words are kept in capitals, since "Mnemonics are case-insensitive". -/
inductive Token where
  | word (cs : List Char)
  | bytes (bs : List Byte)
  | comma
  deriving DecidableEq, Repr

/-- Where the reader of a line stands: between tokens, in a word, in a string, after a backslash, in the two digits of
`\xHH`, or in a comment. Partial words and strings are kept newest first. -/
inductive LexMode where
  | plain
  | inWord (acc : List Char)
  | inString (acc : List Byte)
  | escape (acc : List Byte)
  | hexHigh (acc : List Byte)
  | hexLow (acc : List Byte) (high : Nat)
  | comment
  deriving DecidableEq, Repr

/-- The value of a hex digit of either case. -/
def hexDigit (c : Char) : Option Nat :=
  let n := c.toUpper.toNat
  if 48 ≤ n ∧ n ≤ 57 then some (n - 48) else if 65 ≤ n ∧ n ≤ 70 then some (n - 55) else none

/-- The value of a decimal digit. -/
def decDigit (c : Char) : Option Nat :=
  if 48 ≤ c.toNat ∧ c.toNat ≤ 57 then some (c.toNat - 48) else none

/-- A non-empty digit string in a base. -/
def readDigits (base : Nat) (digit : Char → Option Nat) : List Char → Option Nat
  | [] => none
  | cs => cs.foldl (fun acc c => do return (← acc) * base + (← digit c)) (some 0)

/-- R70: a hex number `0x…` (a word in capitals). -/
def readHex : List Char → Option Nat
  | '0' :: 'X' :: cs => readDigits 16 hexDigit cs
  | _ => none

/-- R70: "numbers are decimal or `0x` hex". -/
def readNumber (cs : List Char) : Option Nat :=
  match readHex cs with
  | some n => some n
  | none => readDigits 10 decDigit cs

/-- One character between tokens. -/
def lexPlain (c : Char) : List Token × LexMode :=
  if c = ';' then ([], .comment)
  else if c = ' ' ∨ c = '\t' then ([], .plain)
  else if c = ',' then ([.comma], .plain)
  else if c = '"' then ([], .inString [])
  else ([], .inWord [c.toUpper])

/-- A character that ends a word. -/
def endsWord (c : Char) : Bool := c = ';' ∨ c = ' ' ∨ c = '\t' ∨ c = ',' ∨ c = '"'

/-- One character of a line: the tokens it completes and where the reader stands after it. -/
def lexStep : LexMode → Char → Except AsmError (List Token × LexMode)
  | .comment, _ => .ok ([], .comment)
  | .plain, c => .ok (lexPlain c)
  | .inWord acc, c =>
    if endsWord c then .ok (.word acc.reverse :: (lexPlain c).1, (lexPlain c).2)
    else .ok ([], .inWord (c.toUpper :: acc))
  | .inString acc, c =>
    if c = '"' then .ok ([.bytes acc.reverse], .plain)
    else if c = '\\' then .ok ([], .escape acc)
    else if c.toNat < 128 then .ok ([], .inString (BitVec.ofNat 8 c.toNat :: acc))
    else .error .badToken
  | .escape acc, c =>
    if c = '\\' ∨ c = '"' then .ok ([], .inString (BitVec.ofNat 8 c.toNat :: acc))
    else if c = 'x' then .ok ([], .hexHigh acc)
    else .error .badToken
  | .hexHigh acc, c =>
    match hexDigit c with
    | some h => .ok ([], .hexLow acc h)
    | none => .error .badToken
  | .hexLow acc h, c =>
    match hexDigit c with
    | some l => .ok ([], .inString (BitVec.ofNat 8 (16 * h + l) :: acc))
    | none => .error .badToken

/-- The tokens of a line, read from a mode. -/
def lexLine : LexMode → List Char → Except AsmError (List Token)
  | .plain, [] => .ok []
  | .comment, [] => .ok []
  | .inWord acc, [] => .ok [.word acc.reverse]
  | .inString _, [] => .error .badToken
  | .escape _, [] => .error .badToken
  | .hexHigh _, [] => .error .badToken
  | .hexLow _ _, [] => .error .badToken
  | mode, c :: cs => do
    let (ts, next) ← lexStep mode c
    return ts ++ (← lexLine next cs)

/-- R70: one byte of a hex byte list, `0xHH`. -/
def readHexByte : Token → Option Byte
  | .word cs => (readHex cs).bind fun n => if n < 256 then some (BitVec.ofNat 8 n) else none
  | .bytes _ => none
  | .comma => none

/-- R70: `<bytes>`, a quoted string or a non-empty hex byte list. -/
def readBytes : List Token → Option (List Byte)
  | [] => none
  | [.bytes bs] => some bs
  | ts => ts.mapM readHexByte

/-- R70 to R72: the line that tokens spell. DESIGN CHOICE (log entry 16): a line without a command (empty, or a comment only)
is accepted and gives no events, on which R70 is silent. -/
def parseLine (ts : List Token) : Except AsmError AsmLine :=
  match ts with
  | [] => .ok .blank
  | .word m :: operands =>
    if m = "INIT".toList then (if operands = [] then .ok .init else .error .badLine)
    else if m = "FINAL".toList then (if operands = [] then .ok .final else .error .badLine)
    else if m = "NOP".toList then (if operands = [] then .ok .nop else .error .badLine)
    else if m = ".WORD".toList then wordLine operands
    else if m = "UPDATE".toList then updateLine operands
    else if m = "ABSORB".toList then bytesLine AsmLine.absorb operands
    else if m = "HASH".toList then bytesLine AsmLine.hash operands
    else .error .badLine
  | .bytes _ :: _ => .error .badLine
  | .comma :: _ => .error .badLine
where
  /-- R70: `.word 0xHHHHHHHH`. DESIGN CHOICE (log entry 16): the operand is hex only, of any count of digits whose value is
  below 2^32; R70 shows eight hex digits and says of numbers in general that they are decimal or `0x` hex. -/
  wordLine : List Token → Except AsmError AsmLine
    | [.word cs] =>
      match readHex cs with
      | some n => if n < 2 ^ 32 then .ok (.word (BitVec.ofNat 32 n)) else .error .badToken
      | none => .error .badToken
    | _ => .error .badLine
  /-- R70, R71: `UPDATE 0`, `UPDATE L, <bytes>`, `UPDATE "<string>"`. DESIGN CHOICE (log entry 16): the short form takes the
  empty string too, as `UPDATE 0`. -/
  updateLine : List Token → Except AsmError AsmLine
    | [.bytes bs] => .ok (.update bs.length bs)
    | [.word cs] => if readNumber cs = some 0 then .ok (.update 0 []) else .error .badLine
    | .word cs :: .comma :: operand =>
      match readNumber cs, readBytes operand with
      | some 0, _ => .error .badLine
      | some n, some bs => .ok (.update n bs)
      | _, _ => .error .badToken
    | _ => .error .badLine
  /-- R72: `ABSORB <bytes>` and `HASH <bytes>`. -/
  bytesLine (k : List Byte → AsmLine) (operands : List Token) : Except AsmError AsmLine :=
    match readBytes operands with
    | some bs => .ok (k bs)
    | none => .error .badToken

/-- R70: a line of text, assembled. -/
def assembleText (line : List Char) : Except AsmError (List HostEvent) := do
  assembleLine (← parseLine (← lexLine .plain line))

/-- R70: "One command per line". -/
def assembleProgram : List (List Char) → Except AsmError (List HostEvent)
  | [] => .ok []
  | line :: lines => do return (← assembleText line) ++ (← assembleProgram lines)

end Sys2Proof.Machine
end

