-- ==== Sys2Proof/Machine/Instances.lean ====
section
/-! DEFINITION. Several block instances side by side, sharing nothing that is written (60_exceptions.md R212). -/

namespace Sys2Proof.Machine

/-- R212: instance number `k` takes its own next event; which instance moves is the outside world's choice
(log entry 17). -/
def stepInstance (xs : List State) (k : Fin xs.length) : Host.Outcome (List State) Fault Refusal :=
  match step (xs.get k) with
  | .next t => .next (xs.set k t)
  | .fault f => .fault f
  | .refused r => .refused r

end Sys2Proof.Machine
end

