-- ==== Sys2Proof/Machine/Ports.lean ====
section
/-! DEFINITION. The output ports P2 to P5, views of the state that reading does not change (10_state.md R29 to R33). -/

namespace Sys2Proof.Machine

/-- R33, R200: the numeric response code. -/
def Resp.code : Resp → BitVec 4
  | .ok => 0
  | .alreadyFinalized => 1
  | .badCommand => 2

/-- R33: RESP (P2). -/
def State.respOut (s : State) : BitVec 4 := s.resp.code

/-- R31: CNT_OUT (P4). -/
def State.cntOut (s : State) : BitVec 64 := s.cnt

/-- R32: DIGEST_OUT (P5), `DS[0] | DS[1]<<32 | DS[2]<<64 | DS[3]<<96`. -/
def State.digestOut (s : State) : BitVec 128 :=
  s.ds.a.setWidth 128 ||| (s.ds.b.setWidth 128 <<< 32) ||| (s.ds.c.setWidth 128 <<< 64) ||| (s.ds.d.setWidth 128 <<< 96)

/-- R29, R47: what the host reads on an output port, the whole port at once. -/
def State.readPort (s : State) : (p : OutPort) → BitVec p.width
  | .resp => s.respOut
  | .status => s.statusOut
  | .cnt => s.cntOut
  | .digest => s.digestOut

end Sys2Proof.Machine
end

