-- ==== Sys2Proof/Machine/Digest.lean ====
section
/-! DEFINITION. The digest of a message, and the blocks a command compresses: the terms in which the spec's laws are
stated (43_session_commands.md R167 to R169; 10_state.md R22, R36). The step does not use them. -/

namespace Sys2Proof.Machine

/-- The first `k` 64-byte pieces of a byte string. -/
def fullBlocks : Nat → List Byte → List (List Byte)
  | 0, _ => []
  | k + 1, m => m.take 64 :: fullBlocks k (m.drop 64)

/-- R167: `k = ⌊|M|/64⌋`. -/
def numFull (m : List Byte) : Nat := m.length / 64

/-- R168: the last `|M| mod 64` bytes of a message, `M[64k..|M|)`. -/
def leftover (m : List Byte) : List Byte := m.drop (64 * numFull m)

/-- R167, R168: the fold of Compress over blocks. -/
def compressAll (ds : DigestState) (blks : List (List Byte)) : DigestState := blks.foldl compress ds

/-- R168: IV compressed over the full blocks of a message. -/
def chainState (m : List Byte) : DigestState := compressAll iv (fullBlocks (numFull m) m)

/-- R134: `L = (8 * M) mod 2^64`, the message length in bits. -/
def bitLength (m : List Byte) : Count := BitVec.ofNat 64 (8 * m.length)

/-- R167: the digest state of a whole message, its padding included. -/
def digestState (m : List Byte) : DigestState :=
  compressAll (chainState m) (padBlocks (leftover m) (bitLength m))

/-- R167: `MD4(M)`. -/
def md4 (m : List Byte) : List Byte := serialize (digestState m)

/-- R169: the blocks a command compresses, in order, from a given state: none for INIT and for the commands that the
Finalized status turns away, the full blocks of the buffer and the new bytes for an Active UPDATE, the padding blocks
for an Active FINAL. -/
def blocksOf (i : Instr) (s : State) : List (List Byte) :=
  match i, s.fin with
  | .init, _ => []
  | .update len, .active =>
    if Config.maxChunk < len.toNat then []
    else fullBlocks ((s.buf.length + len.toNat) / 64) (s.buf ++ dataBytes s.dataIn len.toNat)
  | .final, .active => padBlocks s.buf (cntAdd s.cnt s.buf.length)
  | .update _, .finalized => []
  | .final, .finalized => []

end Sys2Proof.Machine
end

