-- ==== Sys2Proof/Safety.lean ====
section
/-! DEFINITION. What a good state is: the invariants of 10_state.md R36, first those that the state alone shows, then
those that speak of the message accepted so far. -/

namespace Sys2Proof.Machine

/-- R36 points 1, 2 and the first half of 3: `BUF_LEN ≤ 63`; a Finalized session buffers nothing; while Active, CNT is
a multiple of 512. -/
abbrev State.Inv (s : State) : Prop :=
  s.buf.length ≤ 63 ∧ (s.fin = .finalized → s.buf = []) ∧ (s.fin = .active → s.cnt.toNat % 512 = 0)

/-- R36 points 3 to 5 and R168: the session is one that has accepted exactly the message `m` since the last INIT or
reset. While Active, DS is IV compressed over the full blocks of `m`, CNT counts their bits and BUF holds the rest;
once Finalized, DS is the digest state of `m` and CNT its length in bits. -/
def State.Represents (s : State) (m : List Byte) : Prop :=
  match s.fin with
  | .active => s.ds = chainState m ∧ s.cnt = BitVec.ofNat 64 (512 * numFull m) ∧ s.buf = leftover m
  | .finalized => s.ds = digestState m ∧ s.cnt = bitLength m ∧ s.buf = []

/-- The message accepted after a command, given the one accepted before it: INIT starts an empty one, an Active
UPDATE appends its bytes, and nothing else changes it (R36, R161 to R165). -/
def messageAfterCommand (w : CmdWord) (s : State) (m : List Byte) : List Byte :=
  match decode w, s.fin with
  | .ok .init, _ => []
  | .ok (.update len), .active => m ++ dataBytes s.dataIn len.toNat
  | .ok (.update _), .finalized => m
  | .ok .final, _ => m
  | .error _, _ => m

/-- The message accepted after the next step: R230, R231 start an empty one at a reset. -/
def messageAfter (s : State) (m : List Byte) : List Byte :=
  match s.inputs with
  | .writeCmd w :: _ => messageAfterCommand w s m
  | .reset :: _ => []
  | .resetDuring _ :: _ => []
  | .driveData _ :: _ => m
  | .readPort _ :: _ => m
  | .writeCmdBusy _ :: _ => m
  | [] => m

/-- `n` steps, stopping at the first fault or refusal. -/
def runSteps : Nat → State → Host.Outcome State Fault Refusal
  | 0, s => .next s
  | n + 1, s =>
    match step s with
    | .next t => runSteps n t
    | .fault f => .fault f
    | .refused r => .refused r

/-- The message accepted after `n` steps. -/
def messageOfRun : Nat → State → List Byte → List Byte
  | 0, _, m => m
  | n + 1, s, m =>
    match step s with
    | .next t => messageOfRun n t (messageAfter s m)
    | .fault _ => m
    | .refused _ => m

end Sys2Proof.Machine
end

