-- ==== Sys2Proof/Certificates/Slice0/Obligations.lean ====
section
/-! DEFINITION. The statements for the provers, in the order of the spec's files: encoding, compressor, counter, padding,
ports, commands, the step, reset, and the whole-machine laws. Each names the rules it formalises. -/

open Sys2Proof Sys2Proof.Machine

/-! Encoding (30_encoding.md, 60_exceptions.md) -/

/-- 30_encoding.md section 3, the table of R68 (marked by the spec as derived from R61 and R66): the encoded words, that
each of them is legal, and the rule's four illegal words. -/
def Obligations.EncodedWordsOfTheCommandTable : Prop :=
  encode .init = 0x00000001#32 ∧ encode .final = 0x00000003#32 ∧
  (∀ len : BitVec 7, len.toNat ≤ 64 → encode (.update len) = 0x00000002#32 ||| (len.setWidth 32 <<< 4)) ∧
  encode (.update 0) = 0x00000002#32 ∧ encode (.update 1) = 0x00000012#32 ∧ encode (.update 3) = 0x00000032#32 ∧
  encode (.update 14) = 0x000000E2#32 ∧ encode (.update 55) = 0x00000372#32 ∧ encode (.update 56) = 0x00000382#32 ∧
  encode (.update 63) = 0x000003F2#32 ∧ encode (.update 64) = 0x00000402#32 ∧
  (∀ i : Instr, i.WellFormed → Legal (encode i)) ∧
  ¬ Legal 0x00000000#32 ∧ ¬ Legal 0x00000412#32 ∧ ¬ Legal 0x00000013#32 ∧ ¬ Legal 0x80000001#32

/-- 95_test_vectors.md section 10, from R61 to R66 and R201: what the decoder reads from the listed words. Which of the
four refusal names an illegal word gets is the model's own (log entry 6); the statement says only that it is refused. -/
def Obligations.SpecWordsDecodeToTheirCommands : Prop :=
  decode 0x00000001#32 = .ok .init ∧ decode 0x00000003#32 = .ok .final ∧ decode 0x00000002#32 = .ok (.update 0) ∧
  decode 0x00000402#32 = .ok (.update 64) ∧ decode 0x00000372#32 = .ok (.update 55) ∧
  (∀ w ∈ [0x00000000#32, 0x00000004#32, 0x0000000f#32, 0x00000412#32, 0x000007f2#32, 0x00000011#32, 0x00000013#32,
      0x00000802#32, 0x80000001#32], ∃ e, decode w = .error e)

/-- R61, R62, R64: no bit of an encoding is dropped; the decoder gives back every command of the set, with every LEN that
the encoding admits. -/
def Obligations.DecodeOfEncodeIsTheCommand : Prop :=
  ∀ i : Instr, i.WellFormed → decode (encode i) = .ok i

/-- R61, R62, R64, R65: each command has one word only, and a decoded command is well formed. -/
def Obligations.EncodeOfDecodeIsTheWord : Prop :=
  ∀ (w : CmdWord) (i : Instr), decode w = .ok i → i.WellFormed ∧ encode i = w

/-- 30_encoding.md section 3, R66: the decoder accepts exactly the words for which `Legal` holds; there are 67 of them (a
count the spec marks as its own inference, "[derived: from rule R66]"); every other word is answered
with BAD_COMMAND and changes nothing else, in every state and with anything on DATA. -/
def Obligations.DecoderAcceptsExactlyTheLegalWords : Prop :=
  (∀ w : CmdWord, (∃ i, decode w = .ok i) ↔ Legal w) ∧
  (∃ ws : List CmdWord, ws.Nodup ∧ ws.length = 67 ∧ ∀ w, w ∈ ws ↔ Legal w) ∧
  (∀ (w : CmdWord) (s : State), ¬ Legal w → execute w s = .next { s with resp := .badCommand })

/-- R201: in the states of R36 a command word is answered with BAD_COMMAND exactly when one of the rule's four causes
holds. -/
def Obligations.BadCommandExactlyOnTheFourCauses : Prop :=
  ∀ (s : State) (w : CmdWord) (es : List HostEvent), s.Inv → s.inputs = .writeCmd w :: es →
    ∃ t, step s = .next t ∧
      (t.resp = .badCommand ↔
        (w.extractLsb 3 0 = 0x0#4 ∨ 4 ≤ (w.extractLsb 3 0).toNat) ∨
        (∃ j, 11 ≤ j ∧ j ≤ 31 ∧ w.getLsbD j = true) ∨
        (w.extractLsb 3 0 = 0x2#4 ∧ 64 < (w.extractLsb 10 4).toNat) ∨
        ((w.extractLsb 3 0 = 0x1#4 ∨ w.extractLsb 3 0 = 0x3#4) ∧ w.extractLsb 10 4 ≠ 0#7))

/-- R202, R204: an illegal word writes no state but RESP, whatever the status (so the legality check comes before the
status check) and whatever is on DATA. -/
def Obligations.RejectedCommandWritesNoState : Prop :=
  ∀ (s : State) (w : CmdWord) (es : List HostEvent), ¬ Legal w → s.inputs = .writeCmd w :: es →
    step s = .next { s with resp := .badCommand, inputs := es }

/-- R200, R203: the response of every command word in the states of R36, and that a command that answers an error changes
nothing but RESP. -/
def Obligations.EveryCommandAnswersItsTableResponse : Prop :=
  Resp.ok.code = 0#4 ∧ Resp.alreadyFinalized.code = 1#4 ∧ Resp.badCommand.code = 2#4 ∧
  (∀ r : Resp, r.code.toNat ≤ 2) ∧
  ∀ (s : State) (w : CmdWord) (es : List HostEvent), s.Inv → s.inputs = .writeCmd w :: es →
    ∃ t, step s = .next t ∧
      (t.resp = .badCommand ↔ ¬ Legal w) ∧
      (t.resp = .alreadyFinalized ↔
        s.fin = .finalized ∧ ∃ len : BitVec 7, decode w = .ok (.update len) ∧ 1 ≤ len.toNat) ∧
      (t.resp ≠ .ok → t = { s with resp := t.resp, inputs := es })

/-! BlockCompressor (40_block_compressor.md, 00_scope.md) -/

/-- 40_block_compressor.md section 2, R102 to R104: the three mixing functions as formulas and bit by bit (select, majority,
parity), with the rules' corner cases and examples. That f selects and g is the majority bit by bit are inferences the
spec marks as its own ("[derived: from rule R102]", "[derived: from rule R103]"). -/
def Obligations.MixingFunctionsBitByBit : Prop :=
  (∀ x y z : Word, mixF x y z = (x &&& y) ||| (~~~x &&& z) ∧ mixG x y z = (x &&& y) ||| (x &&& z) ||| (y &&& z) ∧
    mixH x y z = x ^^^ y ^^^ z) ∧
  (∀ (x y z : Word) (j : Nat), j < 32 →
    (mixF x y z).getLsbD j = (if x.getLsbD j then y.getLsbD j else z.getLsbD j) ∧
    (mixG x y z).getLsbD j = decide (2 ≤ (x.getLsbD j).toNat + (y.getLsbD j).toNat + (z.getLsbD j).toNat) ∧
    (mixH x y z).getLsbD j = decide (((x.getLsbD j).toNat + (y.getLsbD j).toNat + (z.getLsbD j).toNat) % 2 = 1)) ∧
  (∀ y z : Word, mixF 0xFFFFFFFF y z = y ∧ mixF 0 y z = z) ∧
  (∀ x z : Word, mixG x x z = x ∧ mixG x (~~~x) z = z ∧ mixH x x z = z) ∧
  mixF 0x0F0F0F0F 0x33333333 0x55555555 = 0x53535353#32 ∧
  mixG 0x0F0F0F0F 0x33333333 0x55555555 = 0x17171717#32 ∧
  mixH 0x0F0F0F0F 0x33333333 0x55555555 = 0x69696969#32

/-- 00_scope.md section 5, R12: the rotation is circular, bits that leave at the top re-enter at the bottom, and the hardware
rotates by no other amounts than the rule lists, so never by 0 or 32, which the spec marks as its own inference
("[derived: from 40_block_compressor.md rule R107]"). -/
def Obligations.RotationsAreCircular : Prop :=
  (∀ (v : Word) (s : Nat), 0 < s → s < 32 →
    rotl32 v s = (v <<< s) ||| (v >>> (32 - s)) ∧
    ∀ j, j < 32 → (rotl32 v s).getLsbD ((j + s) % 32) = v.getLsbD j) ∧
  (∀ (r : Round) (j : Nat), shiftAmount r j ∈ [3, 5, 7, 9, 11, 13, 15, 19])

/-- 40_block_compressor.md section 3: the round constants, and that those of rounds 2 and 3 are floor(2^30·√2) and
floor(2^30·√3). That round 1's constant is 0 is the spec's own reading, marked "from general knowledge, not in source"
(R105; 93_implementation_defined.md G2; log entry 12). -/
def Obligations.RoundConstants : Prop :=
  roundConst .one = 0x00000000 ∧ roundConst .two = 0x5A827999 ∧ roundConst .three = 0x6ED9EBA1 ∧
  (roundConst .two).toNat ^ 2 ≤ 2 * (2 ^ 30) ^ 2 ∧ 2 * (2 ^ 30) ^ 2 < ((roundConst .two).toNat + 1) ^ 2 ∧
  (roundConst .three).toNat ^ 2 ≤ 3 * (2 ^ 30) ^ 2 ∧ 3 * (2 ^ 30) ^ 2 < ((roundConst .three).toNat + 1) ^ 2

/-- 40_block_compressor.md section 3, R106 and R107: the word orders, the shift cycles, and that a step adds the word its
round's order selects and rotates by the amount its round's cycle gives. That each order is a permutation of 0 to 15 is
an inference the spec marks as its own ("[derived: from rule R106]"). -/
def Obligations.RoundTables : Prop :=
  (List.range 16).map (wordIndex .one) = [0, 1, 2, 3, 4, 5, 6, 7, 8, 9, 10, 11, 12, 13, 14, 15] ∧
  (List.range 16).map (wordIndex .two) = [0, 4, 8, 12, 1, 5, 9, 13, 2, 6, 10, 14, 3, 7, 11, 15] ∧
  (List.range 16).map (wordIndex .three) = [0, 8, 4, 12, 2, 10, 6, 14, 1, 9, 5, 13, 3, 11, 7, 15] ∧
  (∀ r : Round, ((List.range 16).map (wordIndex r)).Perm (List.range 16)) ∧
  (List.range 4).map (shiftAmount .one) = [3, 7, 11, 19] ∧
  (List.range 4).map (shiftAmount .two) = [3, 5, 9, 13] ∧
  (List.range 4).map (shiftAmount .three) = [3, 9, 11, 15] ∧
  (∀ (r : Round) (j : Nat), shiftAmount r (j + 4) = shiftAmount r j) ∧
  (∀ (r : Round) (x : List Word) (t : DigestState) (j : Nat),
    (mixStep r x t j).b =
      rotl32 (t.a + mix r t.b t.c t.d + x.getD (wordIndex r j) 0 + roundConst r) (shiftAmount r j))

/-- 40_block_compressor.md section 4: one step: the rotated sum of the first variable, the mix of the other three, the word
that the round's order selects and the round's constant, and then the role rotation `(d, a', b, c)`. The rotation's
direction is the spec's own reading, marked "from general knowledge, not in source" (R108;
93_implementation_defined.md G1; log entry 12). -/
def Obligations.StepRotatesTheRoles : Prop :=
  (∀ (r : Round) (x : List Word) (a b c d : Word) (j : Nat),
    mixStep r x ⟨a, b, c, d⟩ j =
      ⟨d, rotl32 (a + mix r b c d + x.getD (wordIndex r j) 0 + roundConst r) (shiftAmount r j), b, c⟩) ∧
  mix .one = mixF ∧ mix .two = mixG ∧ mix .three = mixH ∧
  (mixStep .one (messageWords (0x80#8 :: zeros 63)) iv 0).b = 0x000003F8

/-- 40_block_compressor.md section 4, R109 to R111: the mixing phase is the 48 steps, rounds in the order 1, 2, 3 and steps in the order 0 to 15; after them the
tuple holds the final values of the variables A, B, C, D of the 48-row schedule (round by round: `runSchedule`); Compress
adds the incoming words to it; with the rules' examples. The schedule is marked by the spec as derived (R109), and schedule
and examples rest on the role rotation's direction and on K1 = 0, both "from general knowledge, not in source"
(93_implementation_defined.md G1, G2; log entry 12). -/
def Obligations.CompressIsTheNamedScheduleWithFeedForward : Prop :=
  (∀ (x : List Word) (t : DigestState),
    mixing x t =
      ([Round.one, .two, .three].flatMap fun r => (List.range 16).map fun j => (r, j)).foldl
        (fun u rj => mixStep rj.1 x u rj.2) t) ∧
  (let x := messageWords (0x80#8 :: zeros 63)
    let one := mixRound x iv .one
    let two := mixRound x one .two
    one.b = 0x3665f296 ∧ two.b = 0x6f952b2e ∧ (mixRound x two .three).b = 0x421bbf48) ∧
  compress iv (zeros 64) = ⟨0x015155ef, 0x2e5f67ab, 0x3681c98d, 0x7447ab15⟩ ∧
  (∀ (x : List Word) (t : DigestState),
    mixRound x t .one = runSchedule x 0 scheduleOne t ∧ mixRound x t .two = runSchedule x 16 scheduleTwo t ∧
    mixRound x t .three = runSchedule x 32 scheduleThree t) ∧
  (∀ (ds : DigestState) (blk : List Byte),
    let t := runSchedule (messageWords blk) 0 schedule ds
    compress ds blk = ⟨ds.a + t.a, ds.b + t.b, ds.c + t.c, ds.d + t.d⟩)

/-- R42, R101: the message words of a 64-byte block: sixteen of them, byte 4i + k of the block being bits [8k+7:8k] of word
i, so that the words' bytes in order are the block. -/
def Obligations.MessageWordsAreLittleEndian : Prop :=
  (∀ blk : List Byte, blk.length = 64 →
    (messageWords blk).length = 16 ∧
    (∀ j, j < 16 → (messageWords blk).getD j 0 =
      le32 (blk.getD (4 * j) 0) (blk.getD (4 * j + 1) 0) (blk.getD (4 * j + 2) 0) (blk.getD (4 * j + 3) 0)) ∧
    (∀ j k, j < 16 → k < 4 → ((messageWords blk).getD j 0).extractLsb' (8 * k) 8 = blk.getD (4 * j + k) 0) ∧
    (messageWords blk).flatMap bytesLe32 = blk) ∧
  (messageWords (0x61#8 :: 0x62#8 :: 0x63#8 :: 0x80#8 :: zeros 60)).getD 0 0 = 0x80636261#32

/-- R13: little-endian assembly of 4 and of 8 bytes, and that the byte functions are its inverses in both directions. -/
def Obligations.LittleEndianBytesInvert : Prop :=
  (∀ b0 b1 b2 b3 : Byte,
    le32 b0 b1 b2 b3 =
      b0.setWidth 32 ||| (b1.setWidth 32 <<< 8) ||| (b2.setWidth 32 <<< 16) ||| (b3.setWidth 32 <<< 24) ∧
    bytesLe32 (le32 b0 b1 b2 b3) = [b0, b1, b2, b3]) ∧
  (∀ w : Word, bytesLe32 w = [w.extractLsb 7 0, w.extractLsb 15 8, w.extractLsb 23 16, w.extractLsb 31 24] ∧
    le32 (w.extractLsb 7 0) (w.extractLsb 15 8) (w.extractLsb 23 16) (w.extractLsb 31 24) = w) ∧
  (∀ c0 c1 c2 c3 c4 c5 c6 c7 : Byte,
    (le64 [c0, c1, c2, c3, c4, c5, c6, c7]).toNat =
      c0.toNat + c1.toNat * 2 ^ 8 + c2.toNat * 2 ^ 16 + c3.toNat * 2 ^ 24 + c4.toNat * 2 ^ 32 + c5.toNat * 2 ^ 40 +
        c6.toNat * 2 ^ 48 + c7.toNat * 2 ^ 56 ∧
    bytesLe64 (le64 [c0, c1, c2, c3, c4, c5, c6, c7]) = [c0, c1, c2, c3, c4, c5, c6, c7]) ∧
  (∀ v : Count, le64 (bytesLe64 v) = v ∧ ∀ k, k < 8 → (bytesLe64 v).getD k 0 = v.extractLsb' (8 * k) 8)

/-! BitCounter (41_bit_counter.md) -/

/-- 41_bit_counter.md, the sentence of R131 that the spec marks as derived: the byte-serial form of CntAdd, whose carry ripples through the eight bytes and is discarded after the last, and
the arithmetic form give the same counter, for every counter and every byte count. -/
def Obligations.SerialCounterEqualsWrappingAdd : Prop :=
  ∀ (c : Count) (k : Nat),
    cntAddSerial c k = cntAdd c k ∧ (cntAdd c k).toNat = (c.toNat + 8 * k) % 2 ^ 64

/-- R133: INIT clears the counter, an Active UPDATE advances it by 512 for each block it completes, an Active FINAL by 8 for
each leftover byte, and the commands of a Finalized session leave it. -/
def Obligations.CommandsAdvanceTheCounter : Prop :=
  ∀ (s : State) (i : Instr), s.Inv → i.WellFormed →
    ∃ t, exec i s = .next t ∧
      t.cnt = match i, s.fin with
        | .init, _ => 0
        | .update len, .active => s.cnt + BitVec.ofNat 64 (512 * ((s.buf.length + len.toNat) / 64))
        | .final, .active => s.cnt + BitVec.ofNat 64 (8 * s.buf.length)
        | .update _, .finalized => s.cnt
        | .final, .finalized => s.cnt

/-- R132: the counter wraps modulo 2^64 in UPDATE and in FINAL with no other trace than the value (the rest of the next state
is what it is without a wrap), and FINAL pads with the wrapped length. -/
def Obligations.CounterWrapsSilently : Prop :=
  (∀ (s : State) (len : BitVec 7), s.fin = .active → s.buf.length ≤ 63 → len.toNat ≤ 64 → 64 ≤ s.buf.length + len.toNat →
    let data := s.buf ++ dataBytes s.dataIn len.toNat
    ∃ t, exec (.update len) s = .next t ∧ t.cnt.toNat = (s.cnt.toNat + 512) % 2 ^ 64 ∧
      t = { s with ds := compress s.ds (data.take 64), cnt := t.cnt, buf := data.drop 64, fin := .active, resp := .ok }) ∧
  (∀ s : State, s.fin = .active → s.buf.length ≤ 63 →
    ∃ t, exec .final s = .next t ∧ t.cnt.toNat = (s.cnt.toNat + 8 * s.buf.length) % 2 ^ 64 ∧
      t = { s with ds := compressAll s.ds (padBlocks s.buf t.cnt), cnt := t.cnt, buf := [], fin := .finalized, resp := .ok } ∧
      ∃ blk, (padBlocks s.buf t.cnt).getLast? = some blk ∧ blk.drop 56 = bytesLe64 t.cnt) ∧
  cntAdd 0xFFFFFFFFFFFFFE00#64 64 = 0

/-! Padding and serialization (42_padding_finalizer.md) -/

/-- R141: the first padding block, byte by byte. -/
def Obligations.FirstPaddingBlockLayout : Prop :=
  ∀ buf : List Byte, buf.length ≤ 63 →
    (firstPadBlock buf).length = 64 ∧
    (∀ j, j < buf.length → (firstPadBlock buf).getD j 0 = buf.getD j 0) ∧
    (firstPadBlock buf).getD buf.length 0 = 0x80 ∧
    (∀ j, buf.length < j → j ≤ 63 → (firstPadBlock buf).getD j 0 = 0x00)

/-- 42_padding_finalizer.md, R141 and R142: with at most 55 leftover bytes there is one block, in which the length field
follows message, marker and zeros at offset 56. That it overwrites neither message bytes nor marker is an inference the
spec marks as its own ("[derived: from rule R141 and rule R142]"). -/
def Obligations.OneBlockPaddingLayout : Prop :=
  ∀ (buf : List Byte) (l : Count), buf.length ≤ 55 →
    ∃ p, padBlocks buf l = [p] ∧ p.length = 64 ∧
      (∀ j, j < buf.length → p.getD j 0 = buf.getD j 0) ∧
      p.getD buf.length 0 = 0x80 ∧
      (∀ j, buf.length < j → j < 56 → p.getD j 0 = 0x00) ∧
      (∀ k, k < 8 → p.getD (56 + k) 0 = l.extractLsb' (8 * k) 8)

/-- R143: with 56 to 63 leftover bytes there are two blocks, and only the second holds the length field. -/
def Obligations.TwoBlockPaddingLayout : Prop :=
  ∀ (buf : List Byte) (l : Count), 56 ≤ buf.length → buf.length ≤ 63 →
    ∃ p q, padBlocks buf l = [p, q] ∧ p.length = 64 ∧ q.length = 64 ∧
      (∀ j, j < buf.length → p.getD j 0 = buf.getD j 0) ∧
      p.getD buf.length 0 = 0x80 ∧
      (∀ j, buf.length < j → j ≤ 63 → p.getD j 0 = 0x00) ∧
      (∀ j, j ≤ 55 → q.getD j 0 = 0x00) ∧
      (∀ k, k < 8 → q.getD (56 + k) 0 = l.extractLsb' (8 * k) 8)

/-- R44, R146: the serialization is always 16 bytes, byte 4i + k being bits [8k+7:8k] of the i-th word in the order A, B,
C, D; with R146's example. -/
def Obligations.DigestSerialization : Prop :=
  (∀ ds : DigestState, (serialize ds).length = 16 ∧
    ∀ j k, j < 4 → k < 4 →
      (serialize ds).getD (4 * j + k) 0 = ([ds.a, ds.b, ds.c, ds.d].getD j 0).extractLsb' (8 * k) 8) ∧
  serialize ⟨0xe0cfd631, 0x31e96ad1, 0xd7593cb7, 0xc089c0e0⟩ =
    [0x31, 0xd6, 0xcf, 0xe0, 0xd1, 0x6a, 0xe9, 0x31, 0xb7, 0x3c, 0x59, 0xd7, 0xe0, 0xc0, 0x89, 0xc0]

/-! Ports (10_state.md) -/

/-- R30, R31: the fields of STATUS_OUT, and CNT_OUT with its bytes; both are read-only: whatever the host does but a command
or a reset leaves them. -/
def Obligations.StatusAndCounterPorts : Prop :=
  (∀ s : State, s.buf.length ≤ 63 →
    s.statusOut.extractLsb 0 0 = (match s.fin with | .active => 0#1 | .finalized => 1#1) ∧
    s.statusOut.extractLsb 7 1 = 0 ∧
    (s.statusOut.extractLsb 13 8).toNat = s.buf.length ∧
    s.statusOut.extractLsb 31 14 = 0 ∧
    s.statusOut = (s.fin.bit.setWidth 32 ||| (BitVec.ofNat 32 s.buf.length <<< 8)) ∧
    s.cntOut = s.cnt ∧ (∀ k, k < 8 → s.cntOut.extractLsb' (8 * k) 8 = (bytesLe64 s.cnt).getD k 0)) ∧
  (∀ s t : State, step s = .next t →
    (∀ w es, s.inputs ≠ .writeCmd w :: es) → (∀ es, s.inputs ≠ .reset :: es) → (∀ w es, s.inputs ≠ .resetDuring w :: es) →
    t.statusOut = s.statusOut ∧ t.cntOut = s.cntOut)

/-- R32: DIGEST_OUT is the serialized digest state at all times, as bytes and as a number; of a session that has accepted
the message `m` it is MD4(m) once Finalized, and the chaining state while Active; it is read-only: whatever the host does
but a command or a reset leaves it. -/
def Obligations.DigestPortOfASession : Prop :=
  (∀ s : State, s.digestOut =
      (s.ds.a.setWidth 128 ||| (s.ds.b.setWidth 128 <<< 32) ||| (s.ds.c.setWidth 128 <<< 64) ||| (s.ds.d.setWidth 128 <<< 96)) ∧
    ∀ k, k < 16 → s.digestOut.extractLsb' (8 * k) 8 = (serialize s.ds).getD k 0) ∧
  (∀ (s : State) (m : List Byte), s.Represents m →
    (s.fin = .finalized → ∀ k, k < 16 → s.digestOut.extractLsb' (8 * k) 8 = (md4 m).getD k 0) ∧
    (s.fin = .active → ∀ k, k < 16 → s.digestOut.extractLsb' (8 * k) 8 = (serialize (chainState m)).getD k 0)) ∧
  (∀ s t : State, step s = .next t →
    (∀ w es, s.inputs ≠ .writeCmd w :: es) → (∀ es, s.inputs ≠ .reset :: es) → (∀ w es, s.inputs ≠ .resetDuring w :: es) →
    t.digestOut = s.digestOut)

/-! Commands (43_session_commands.md) -/

/-- R161: INIT's word, its effect in either status and from any state, its response, what the ports then show, and that
right after reset it changes nothing. -/
def Obligations.InitStartsANewSession : Prop :=
  decode 0x00000001#32 = .ok .init ∧
  (∀ s : State, exec .init s =
    .next { s with ds := ⟨0x67452301, 0xefcdab89, 0x98badcfe, 0x10325476⟩, cnt := 0, buf := [], fin := .active, resp := .ok }) ∧
  (∀ s t : State, exec .init s = .next t → t.statusOut = 0x00000000 ∧ t.cntOut = 0 ∧ t.respOut = 0 ∧
    (List.range 16).map (fun k => t.digestOut.extractLsb' (8 * k) 8) =
      [0x01, 0x23, 0x45, 0x67, 0x89, 0xab, 0xcd, 0xef, 0xfe, 0xdc, 0xba, 0x98, 0x76, 0x54, 0x32, 0x10]) ∧
  exec .init State.reset = .next State.reset

/-- 43_session_commands.md section 3, R162: UPDATE in the Active state, in the states of R36: the new bytes are lanes 0 to
LEN-1 in order; without a full block they are only appended; with one, the first 64 bytes are compressed and counted
once, the rest stays. That the buffer never exceeds 127 bytes, and so the single turn of the loop, is an inference the
spec marks as its own ("[derived: from 10_state.md rule R36 and 30_encoding.md rule R64]"). -/
def Obligations.ActiveUpdateAppendsAndCompresses : Prop :=
  ∀ (s : State) (len : BitVec 7), s.fin = .active → s.buf.length ≤ 63 → len.toNat ≤ 64 →
    let data := s.buf ++ dataBytes s.dataIn len.toNat
    decode (0x00000002#32 ||| (len.setWidth 32 <<< 4)) = .ok (.update len) ∧
    (dataBytes s.dataIn len.toNat).length = len.toNat ∧
    (∀ k, k < len.toNat → (dataBytes s.dataIn len.toNat).getD k 0 = s.dataIn.extractLsb' (8 * k) 8) ∧
    data.length ≤ 127 ∧
    (data.length < 64 → exec (.update len) s = .next { s with buf := data, resp := .ok }) ∧
    (64 ≤ data.length → exec (.update len) s =
      .next { s with ds := compress s.ds (data.take 64), cnt := cntAdd s.cnt 64, buf := data.drop 64, resp := .ok }) ∧
    (data.length = 64 → data.drop 64 = []) ∧
    (len = 0 → exec (.update len) s = .next { s with resp := .ok })

/-- R163: UPDATE in the Finalized state writes nothing; the response tells empty from non-empty. -/
def Obligations.FinalizedUpdateWritesNoState : Prop :=
  ∀ (s : State) (len : BitVec 7), s.fin = .finalized → len.toNat ≤ 64 →
    exec (.update len) s = .next { s with resp := if len = 0 then .ok else .alreadyFinalized }

/-- The loop of R162 run to its end in every Active state, those that break R36 included (that part is the model's
reading, log entry 8): an UPDATE always completes. -/
def Obligations.UpdateRunsItsLoopInEveryState : Prop :=
  ∀ (s : State) (len : BitVec 7), s.fin = .active → len.toNat ≤ 64 →
    let data := s.buf ++ dataBytes s.dataIn len.toNat
    let k := data.length / 64
    exec (.update len) s =
      .next { s with ds := compressAll s.ds (fullBlocks k data), cnt := cntAdd s.cnt (64 * k), buf := data.drop (64 * k), resp := .ok }

/-- R164: FINAL in the Active state: the leftover bytes are counted first, the padding holds that count, one or two blocks
are compressed, the buffer is emptied and the session is Finalized; the empty message and "abc" give the digests the rule
states. -/
def Obligations.ActiveFinalPadsAndCloses : Prop :=
  decode 0x00000003#32 = .ok .final ∧
  (∀ s : State, s.fin = .active → s.buf.length ≤ 63 →
    let l := cntAdd s.cnt s.buf.length
    ∃ t, exec .final s = .next t ∧
      t = { s with ds := t.ds, cnt := l, buf := [], fin := .finalized, resp := .ok } ∧
      (s.buf.length ≤ 55 → ∃ p, padBlocks s.buf l = [p] ∧ t.ds = compress s.ds p) ∧
      (55 < s.buf.length → ∃ p q, padBlocks s.buf l = [p, q] ∧ t.ds = compress (compress s.ds p) q)) ∧
  (∀ s : State, s.fin = .active → s.ds = iv → s.cnt = 0 → s.buf = [] →
    ∃ t, exec .final s = .next t ∧ serialize t.ds =
      [0x31, 0xd6, 0xcf, 0xe0, 0xd1, 0x6a, 0xe9, 0x31, 0xb7, 0x3c, 0x59, 0xd7, 0xe0, 0xc0, 0x89, 0xc0]) ∧
  (∀ s : State, s.fin = .active → s.ds = iv → s.cnt = 0 → s.buf = [0x61, 0x62, 0x63] →
    ∃ t, exec .final s = .next t ∧ t.cntOut = 0x18 ∧ serialize t.ds =
      [0xa4, 0x48, 0x01, 0x7a, 0xaf, 0x21, 0xd8, 0x52, 0x5f, 0xc1, 0x0a, 0xe8, 0x7a, 0xa6, 0x72, 0x9d])

/-- 43_session_commands.md section 4, R165: FINAL in the Finalized state is OK and writes no state. That the digest therefore
still stands is an inference the spec marks as its own ("[derived: from rules R163, R165]"). -/
def Obligations.FinalizedFinalIsIdempotent : Prop :=
  ∀ s : State, s.fin = .finalized →
    exec .final s = .next { s with resp := .ok } ∧
    ∀ t, exec .final s = .next t → t.digestOut = s.digestOut

/-- R205, as the model takes it (log entry 7): FINAL over a buffer of more than 63 bytes, which no run holds, would compress
a block that is not 64 bytes, and is the OversizedChunk fault. -/
def Obligations.FinalOfAnOversizedBufferFaults : Prop :=
  ∀ s : State, s.fin = .active → 63 < s.buf.length → exec .final s = .fault .oversizedChunk

/-- 20_memory.md section 3, the last sentences of R47 (marked by the spec as derived): a command word other than an UPDATE, written twice, leaves what writing it once leaves; an UPDATE of at least one
byte in the Active state does not. -/
def Obligations.OnlyUpdateIsNotIdempotent : Prop :=
  (∀ (s : State) (w : CmdWord), s.Inv → (∀ len, decode w ≠ .ok (.update len)) →
    ∃ t, execute w s = .next t ∧ execute w t = .next t) ∧
  (∀ (s : State) (w : CmdWord) (len : BitVec 7), s.Inv → s.fin = .active → decode w = .ok (.update len) → 1 ≤ len.toNat →
    ∃ t u, execute w s = .next t ∧ execute w t = .next u ∧ u ≠ t)

/-- R67, R72: NOP, that is UPDATE 0, changes nothing in any state of R36 and answers OK. -/
def Obligations.EmptyUpdateIsANop : Prop :=
  issueNop = [.writeCmd 0x00000002#32] ∧
  ∀ s : State, s.Inv → exec (.update 0) s = .next { s with resp := .ok }

/-- 43_session_commands.md section 5, R169 (marked by the spec as derived): how many compressions each command performs, that DS is the result of just those, and that an illegal word
performs none. The list of blocks is `blocksOf`. -/
def Obligations.CompressionsPerCommand : Prop :=
  (∀ (s : State) (i : Instr), s.Inv → i.WellFormed →
    (∃ t, exec i s = .next t ∧ t.ds = compressAll (if i = .init then iv else s.ds) (blocksOf i s)) ∧
    (∀ b ∈ blocksOf i s, b.length = 64) ∧
    ((blocksOf i s).length = match i, s.fin with
      | .init, _ => 0
      | .update len, .active => (s.buf.length + len.toNat) / 64
      | .final, .active => if s.buf.length ≤ 55 then 1 else 2
      | .update _, .finalized => 0
      | .final, .finalized => 0) ∧
    (∀ len, i = .update len → (s.buf.length + len.toNat) / 64 ≤ 1) ∧
    (blocksOf i s).length ≤ 2) ∧
  (∀ (s : State) (w : CmdWord), ¬ Legal w → ∃ t, execute w s = .next t ∧ t.ds = s.ds)

/-! Frames and whole-machine rules -/

/-- R22: DS changes in a step only by loading IV (INIT, reset) or by compressing whole 64-byte blocks one after the other
into it. -/
def Obligations.DigestStateChangesOnlyByCompression : Prop :=
  ∀ s t : State, step s = .next t →
    (∀ (w : CmdWord) (es : List HostEvent) (i : Instr), s.inputs = .writeCmd w :: es → decode w = .ok i →
      t.ds = compressAll (if i = .init then iv else s.ds) (blocksOf i s) ∧ ∀ b ∈ blocksOf i s, b.length = 64) ∧
    (∀ (w : CmdWord) (es : List HostEvent), s.inputs = .resetDuring w :: es → t.ds = iv) ∧
    (∀ es : List HostEvent, s.inputs = .reset :: es → t.ds = iv) ∧
    ((∀ (w : CmdWord) (es : List HostEvent) (i : Instr), s.inputs = .writeCmd w :: es → decode w ≠ .ok i) →
      (∀ es, s.inputs ≠ .reset :: es) → (∀ w es, s.inputs ≠ .resetDuring w :: es) → t.ds = s.ds)

/-- R25: FIN is 0 or 1 as the status is, FINAL in the Active state sets it, INIT and reset clear it, no other command
writes it, and while it is 1 no command but INIT changes DS, CNT, BUF or FIN. -/
def Obligations.FinChangesOnlyAsTheRuleSays : Prop :=
  SessionStatus.active.bit = 0#1 ∧ SessionStatus.finalized.bit = 1#1 ∧
  (∀ (s t : State) (i : Instr), exec i s = .next t →
    t.fin = (match i with | .init => .active | .update _ => s.fin | .final => .finalized) ∧
    (s.fin = .finalized → i ≠ .init → t.ds = s.ds ∧ t.cnt = s.cnt ∧ t.buf = s.buf ∧ t.fin = s.fin)) ∧
  (∀ (s t : State) (w : CmdWord), ¬ Legal w → execute w s = .next t →
    t.ds = s.ds ∧ t.cnt = s.cnt ∧ t.buf = s.buf ∧ t.fin = s.fin) ∧
  (∀ (s t : State) (es : List HostEvent), s.inputs = .reset :: es → step s = .next t → t.fin = .active)

/-- R63, R234: what stands on the lanes that a command does not read cannot be seen in its outcome: all lanes for INIT and
FINAL, lanes LEN to 63 for UPDATE LEN. -/
def Obligations.UnreadDataLanesDoNotMatter : Prop :=
  (∀ (s t : State) (d : DataPort), exec .init s = .next t → exec .init (s.withData d) = .next (t.withData d)) ∧
  (∀ (s t : State) (d : DataPort), exec .final s = .next t → exec .final (s.withData d) = .next (t.withData d)) ∧
  (∀ (s t : State) (d : DataPort) (len : BitVec 7),
    (∀ k, k < len.toNat → d.extractLsb' (8 * k) 8 = s.dataIn.extractLsb' (8 * k) 8) →
    exec (.update len) s = .next t → exec (.update len) (s.withData d) = .next (t.withData d))

/-- The frame of the commands towards the outside (R29, R50): no command changes what the host drives on DATA or what the
host does next. -/
def Obligations.CommandsLeaveTheHostSideAlone : Prop :=
  ∀ (i : Instr) (s t : State), exec i s = .next t → t.dataIn = s.dataIn ∧ t.inputs = s.inputs

/-- R165, R235: once Finalized, a session keeps its digest, its count and its empty buffer through any number of steps in
which the host issues no INIT and no reset, whatever else it does. -/
def Obligations.FinalizedSessionKeepsItsDigest : Prop :=
  ∀ (n : Nat) (s t : State), s.fin = .finalized →
    (∀ e ∈ s.inputs, e ≠ .reset ∧ (∀ w, e ≠ .resetDuring w) ∧ ∀ w, e = .writeCmd w → decode w ≠ .ok .init) →
    runSteps n s = .next t →
    t.digestOut = s.digestOut ∧ t.ds = s.ds ∧ t.cnt = s.cnt ∧ t.buf = s.buf ∧ t.fin = .finalized

/-! The step -/

/-- R160, R50: when the host's next event is a CMD write of a word that decodes to `i`, the step is `exec i` with that
event taken; `withFetchWord` puts such an event first and changes nothing else. -/
def Obligations.StepRunsTheDecodedCommand : Prop :=
  (∀ (s : State) (w : CmdWord) (es : List HostEvent) (i : Instr), s.inputs = .writeCmd w :: es → decode w = .ok i →
    step s = exec i { s with inputs := es }) ∧
  (∀ (s : State) (w : Nat) (i : Instr), decodeTableWord 32 w = some i → step (s.withFetchWord 32 w) = exec i s)

/-- R216, R29, R47: idling changes no state; reading an output port changes none; driving DATA changes no port's content;
and a step changes the session or RESP only for a command or a reset. -/
def Obligations.OnlyCommandsAndResetsChangeTheSession : Prop :=
  (∀ s : State, s.inputs = [] → step s = .next s) ∧
  (∀ (s : State) (p : OutPort) (es : List HostEvent), s.inputs = .readPort p :: es → step s = .next { s with inputs := es }) ∧
  (∀ (s : State) (d : DataPort) (es : List HostEvent), s.inputs = .driveData d :: es →
    step s = .next { s with dataIn := d, inputs := es }) ∧
  (∀ s t : State, step s = .next t →
    (∀ w es, s.inputs ≠ .writeCmd w :: es) → (∀ es, s.inputs ≠ .reset :: es) → (∀ w es, s.inputs ≠ .resetDuring w :: es) →
    t.ds = s.ds ∧ t.cnt = s.cnt ∧ t.buf = s.buf ∧ t.fin = s.fin ∧ t.resp = s.resp)

/-- R234: a command uses the value that DATA holds when CMD is written, and a change of DATA after that has no effect on
it: the state is the one the command left, with the new value on the port. -/
def Obligations.DataIsSampledWhenTheCommandStarts : Prop :=
  (∀ (s : State) (w : CmdWord) (d : DataPort) (es : List HostEvent), s.inputs = .driveData d :: .writeCmd w :: es →
    ∃ t, step s = .next t ∧ step t = execute w { s with dataIn := d, inputs := es }) ∧
  (∀ (s t : State) (w : CmdWord) (d : DataPort) (es : List HostEvent),
    s.inputs = .writeCmd w :: .driveData d :: es → step s = .next t →
    step t = .next { t with dataIn := d, inputs := es })

/-! Reset (70_reset_and_hazards.md, 10_state.md) -/

/-- 10_state.md section 10, R37: the reset state, item by item and as the ports show it. The DIGEST_OUT bytes are an entry the
spec marks as its own inference ("[derived: from rule R21 and 42_padding_finalizer.md rule R146]"). -/
def Obligations.ResetValues : Prop :=
  State.reset.ds = ⟨0x67452301, 0xefcdab89, 0x98badcfe, 0x10325476⟩ ∧ State.reset.cnt = 0x0000000000000000#64 ∧
  State.reset.buf = [] ∧ State.reset.fin = .active ∧ State.reset.respOut = 0 ∧
  State.reset.statusOut = 0x00000000#32 ∧ State.reset.cntOut = 0x0000000000000000#64 ∧
  (List.range 16).map (fun k => State.reset.digestOut.extractLsb' (8 * k) 8) =
    [0x01, 0x23, 0x45, 0x67, 0x89, 0xab, 0xcd, 0xef, 0xfe, 0xdc, 0xba, 0x98, 0x76, 0x54, 0x32, 0x10] ∧
  (∀ s t : State, exec .init s = .next t →
    t.ds = State.reset.ds ∧ t.cnt = State.reset.cnt ∧ t.buf = State.reset.buf ∧ t.fin = State.reset.fin ∧ t.resp = State.reset.resp)

/-- R230, R231: a reset between commands, and a reset that abandons a command, both give the reset state's values, which
are what INIT gives, and leave the host's side alone; the abandoned command leaves no trace. -/
def Obligations.ResetEqualsInit : Prop :=
  (∀ (s : State) (es : List HostEvent), s.inputs = .reset :: es →
    step s = .next { State.reset with dataIn := s.dataIn, inputs := es } ∧
    step s = exec .init { s with inputs := es }) ∧
  (∀ (s : State) (w : CmdWord) (es : List HostEvent), s.inputs = .resetDuring w :: es →
    step s = .next { State.reset with dataIn := s.dataIn, inputs := es })

/-- R233, 93_implementation_defined.md I15, as the model takes it (log entry 10): a CMD write while the command before it is
still in progress has no step; the model stops with a named fault. -/
def Obligations.CommandWrittenWhileBusyHasNoStep : Prop :=
  ∀ (s : State) (w : CmdWord) (es : List HostEvent), s.inputs = .writeCmdBusy w :: es → step s = .fault .commandWhileBusy

/-! Invariants -/

/-- 10_state.md section 9, R36 (marked by the spec as derived): its points 1 to 3 hold at reset. -/
def Obligations.InvariantHoldsAtReset : Prop := State.reset.Inv

/-- 10_state.md section 9, R36 (marked by the spec as derived): its points 1 to 3 are kept by every step from every state that meets them, not from reset alone. -/
def Obligations.StepKeepsTheInvariant : Prop :=
  ∀ s t : State, s.Inv → step s = .next t → t.Inv

/-- R36, R168: the reset state is that of a session that has accepted the empty message. -/
def Obligations.ResetRepresentsTheEmptyMessage : Prop := State.reset.Represents []

/-- 10_state.md section 9 and 43_session_commands.md section 5 (R36 points 3 to 5 and R168, marked by the spec as derived):
from every state that holds the session of a message, a step leads to a state that holds the
session of the message after it: DS, CNT and BUF are what the accepted bytes alone determine. -/
def Obligations.StepKeepsTheSessionMessage : Prop :=
  ∀ (s t : State) (m : List Byte), s.Represents m → step s = .next t → t.Represents (messageAfter s m)

/-- 10_state.md section 9, R36 (marked by the spec as derived): every state reached from reset, under any events of the host, meets the rule's five invariants, where `m` is the
message that the run has accepted since its last INIT or reset. The clause on DS is that of R168
(43_session_commands.md section 5, marked as derived too). -/
def Obligations.ReachableStatesMeetTheSpecInvariants : Prop :=
  ∀ (n : Nat) (es : List HostEvent) (d : DataPort) (t : State),
    runSteps n { State.reset with inputs := es, dataIn := d } = .next t →
    let m := messageOfRun n { State.reset with inputs := es, dataIn := d } []
    t.buf.length ≤ 63 ∧
    (t.fin = .finalized → t.buf = []) ∧
    (t.fin = .active → t.cnt.toNat % 512 = 0 ∧ t.cnt.toNat = (512 * (m.length / 64)) % 2 ^ 64 ∧
      t.ds = compressAll iv (fullBlocks (m.length / 64) m)) ∧
    (t.fin = .active → m.length = 64 * (m.length / 64) + t.buf.length ∧ t.buf = m.drop (m.length - t.buf.length)) ∧
    (t.fin = .finalized → t.cnt.toNat = (8 * m.length) % 2 ^ 64)

/-! The digest -/

/-- 43_session_commands.md section 5, R167 (marked by the spec as derived): from any state, the command sequence `HASH m` (R72) ends Finalized with the message's length in bits and its MD4
digest on DIGEST_OUT, for every byte string, and MD4 is the fold of Compress the rule gives. -/
def Obligations.HashComputesTheDigestOfTheMessage : Prop :=
  (∀ (s : State) (m : List Byte) (es : List HostEvent), s.inputs = issueHash m ++ es →
    ∃ t, runSteps (issueHash m).length s = .next t ∧
      t.fin = .finalized ∧ t.cnt.toNat = (8 * m.length) % 2 ^ 64 ∧ t.resp = .ok ∧ t.inputs = es ∧
      (List.range 16).map (fun k => t.digestOut.extractLsb' (8 * k) 8) = md4 m) ∧
  (∀ m : List Byte, md4 m =
    serialize ((fullBlocks (m.length / 64) m ++
      padBlocks (m.drop (64 * (m.length / 64))) (BitVec.ofNat 64 (8 * m.length))).foldl compress iv))

/-- 43_session_commands.md section 5, R168 (marked by the spec as derived): after INIT from any state, UPDATEs whose chunks concatenate to a message leave the same DS, CNT and BUF however
the message is split, and so the same digest after FINAL. -/
def Obligations.StreamingLeavesTheSameSession : Prop :=
  (∀ (s : State) (chunks : List (List Byte)) (es : List HostEvent), (∀ c ∈ chunks, c.length ≤ 64) →
    s.inputs = issue .init ++ chunks.flatMap issueUpdate ++ es →
    ∃ t, runSteps (issue .init ++ chunks.flatMap issueUpdate).length s = .next t ∧
      t.fin = .active ∧ t.resp = .ok ∧ t.inputs = es ∧
      t.ds = compressAll iv (fullBlocks (chunks.flatten.length / 64) chunks.flatten) ∧
      t.cnt.toNat = (512 * (chunks.flatten.length / 64)) % 2 ^ 64 ∧
      t.buf = chunks.flatten.drop (64 * (chunks.flatten.length / 64))) ∧
  (∀ (s u : State) (cs ds : List (List Byte)), (∀ c ∈ cs, c.length ≤ 64) → (∀ c ∈ ds, c.length ≤ 64) →
    cs.flatten = ds.flatten →
    s.inputs = issue .init ++ cs.flatMap issueUpdate ++ issue .final →
    u.inputs = issue .init ++ ds.flatMap issueUpdate ++ issue .final →
    ∃ t v, runSteps s.inputs.length s = .next t ∧ runSteps u.inputs.length u = .next v ∧
      t.fin = .finalized ∧ v.fin = .finalized ∧ t.digestOut = v.digestOut ∧ t.cnt = v.cnt ∧ t.buf = v.buf)

/-! Several instances, and the assembler -/

/-- R212: a step of one instance is that instance's own step, and every other instance is as before. -/
def Obligations.InstancesAreIndependent : Prop :=
  ∀ (xs : List State) (k : Fin xs.length) (t : State), step (xs.get k) = .next t →
    ∃ ys, stepInstance xs k = .next ys ∧ ys.length = xs.length ∧ ys[k.val]? = some t ∧
      ∀ j, j ≠ k.val → ys[j]? = xs[j]?

/-- R70: the assembler takes a line `UPDATE L, <bytes>` exactly when the byte count is L and L is at most 64; it then writes
the UPDATE word with LEN = L, and the bytes stand on lanes 0 to L-1 in order. -/
def Obligations.AssembledUpdateReadsBack : Prop :=
  ∀ (len : Nat) (bs : List Byte),
    ((∃ es, assembleLine (.update len bs) = .ok es) ↔ bs.length = len ∧ len ≤ 64) ∧
    (bs.length = len → len ≤ 64 → 0 < len →
      assembleLine (.update len bs) = .ok [.driveData (packLanes bs), .writeCmd (0x2#32 ||| (BitVec.ofNat 32 len <<< 4))] ∧
      dataBytes (packLanes bs) len = bs) ∧
    (len = 0 → bs = [] → assembleLine (.update len bs) = .ok [.writeCmd 0x00000002#32])

/-- R72: the chunks of ABSORB carry the message in order; each but a shorter last one is 64 bytes, and the last is the rest;
the empty message has none; HASH is INIT, ABSORB, FINAL. -/
def Obligations.AbsorbChunksCarryTheMessage : Prop :=
  (∀ m : List Byte, (absorbChunks m).flatten = m ∧
    (absorbChunks m).length = m.length / 64 + (if m.length % 64 = 0 then 0 else 1) ∧
    (∀ j, j < m.length / 64 → ((absorbChunks m).getD j []).length = 64) ∧
    (m.length % 64 ≠ 0 → ((absorbChunks m).getD (m.length / 64) []).length = m.length % 64)) ∧
  absorbChunks [] = [] ∧
  (∀ m : List Byte, issueHash m =
    .writeCmd 0x00000001#32 :: ((absorbChunks m).flatMap issueUpdate ++ [.writeCmd 0x00000003#32]))
end

