-- ==== Sys2Proof/Laws/Bytes.lean ====
section
/-! SUPPORT. Lengths of byte sequences and the reading of one lane or byte of them. -/

namespace Sys2Proof.Machine

@[simp] theorem bytesLe32_length (w : Word) : (bytesLe32 w).length = 4 := rfl

@[simp] theorem bytesLe64_length (v : Count) : (bytesLe64 v).length = 8 := rfl

@[simp] theorem zeros_length (n : Nat) : (zeros n).length = n := by simp [zeros]

@[simp] theorem dataBytes_length (d : DataPort) (n : Nat) : (dataBytes d n).length = n := by simp [dataBytes]

theorem dataBytes_getD (d : DataPort) (n k : Nat) (h : k < n) : (dataBytes d n).getD k 0 = dataByte d k := by
  simp [dataBytes, h]

@[simp] theorem firstPadBlock_length (buf : List Byte) : (firstPadBlock buf).length = buf.length + 1 + (63 - buf.length) := by
  simp [firstPadBlock]; omega

@[simp] theorem rippleAdd_length (cs : List Byte) (carry : Nat) : (rippleAdd cs carry).length = cs.length := by
  induction cs generalizing carry with
  | nil => rfl
  | cons c cs ih => simp [rippleAdd, ih]

end Sys2Proof.Machine
end

