-- ==== Sys2Proof/Laws/Decode.lean ====
section
/-! SUPPORT. The fields of a packed word, and what each answer of the decoder says about the word. -/

namespace Sys2Proof

theorem packWord_toNat (o : BitVec 4) (l : BitVec 7) : (packWord o l).toNat = 16 * l.toNat + o.toNat := by
  have := o.isLt
  simp only [packWord, BitVec.toNat_append, Nat.shiftLeft_eq]
  rw [← Nat.shiftLeft_eq, ← Nat.shiftLeft_add_eq_or_of_lt o.isLt]
  simp [Nat.shiftLeft_eq]; omega

@[simp] theorem opcField_packWord (o : BitVec 4) (l : BitVec 7) : opcField (packWord o l) = o := by
  apply BitVec.eq_of_toNat_eq
  have := o.isLt
  simp only [opcField, BitVec.extractLsb_toNat, packWord_toNat, Nat.shiftRight_eq_div_pow]
  omega

@[simp] theorem lenField_packWord (o : BitVec 4) (l : BitVec 7) : lenField (packWord o l) = l := by
  apply BitVec.eq_of_toNat_eq
  have := o.isLt
  have := l.isLt
  simp only [lenField, BitVec.extractLsb_toNat, packWord_toNat, Nat.shiftRight_eq_div_pow]
  omega

@[simp] theorem rsvdField_packWord (o : BitVec 4) (l : BitVec 7) : rsvdField (packWord o l) = 0 := by
  apply BitVec.eq_of_toNat_eq
  have := o.isLt
  have := l.isLt
  simp only [rsvdField, BitVec.extractLsb_toNat, packWord_toNat, Nat.shiftRight_eq_div_pow]
  simp; omega

theorem decode_init_iff (w : CmdWord) :
    decode w = .ok .init ↔ rsvdField w = 0 ∧ opcField w = 0x1 ∧ lenField w = 0 := by
  unfold decode
  split_ifs <;> simp_all

theorem decode_final_iff (w : CmdWord) :
    decode w = .ok .final ↔ rsvdField w = 0 ∧ opcField w = 0x3 ∧ lenField w = 0 := by
  unfold decode
  split_ifs <;> simp_all

theorem decode_update_iff (w : CmdWord) (len : BitVec 7) :
    decode w = .ok (.update len) ↔
      rsvdField w = 0 ∧ opcField w = 0x2 ∧ lenField w = len ∧ len.toNat ≤ Config.maxChunk := by
  unfold decode
  split_ifs with h1 h2 h3 h4 h5 h6 h7 <;> simp_all
  · rintro rfl; exact h5
  · rintro rfl; exact h5

end Sys2Proof
end

