-- ==== Sys2Proof/Laws/Digest.lean ====
section
/-! SUPPORT. Cutting a byte string into 64-byte blocks, and folding Compress over them. -/

namespace Sys2Proof.Machine

@[simp] theorem fullBlocks_count (k : Nat) (m : List Byte) : (fullBlocks k m).length = k := by
  induction k generalizing m with
  | zero => rfl
  | succ k ih => simp [fullBlocks, ih]

/-- Every block cut from enough bytes is a whole one. -/
theorem fullBlocks_size (k : Nat) (m blk : List Byte) (hm : 64 * k ≤ m.length) (h : blk ∈ fullBlocks k m) :
    blk.length = 64 := by
  induction k generalizing m with
  | zero => simp [fullBlocks] at h
  | succ k ih =>
    rcases List.mem_cons.1 h with rfl | h
    · simp; omega
    · exact ih (m.drop 64) (by simp; omega) h

/-- Bytes behind the blocks do not matter to them. -/
theorem fullBlocks_append_right (k : Nat) (m x : List Byte) (hm : 64 * k ≤ m.length) :
    fullBlocks k (m ++ x) = fullBlocks k m := by
  induction k generalizing m with
  | zero => rfl
  | succ k ih =>
    have h64 : 64 ≤ m.length := by omega
    rw [fullBlocks, fullBlocks, List.take_append_of_le_length h64, List.drop_append_of_le_length h64,
      ih (m.drop 64) (by simp; omega)]

/-- Cutting in two goes. -/
theorem fullBlocks_add (k j : Nat) (m : List Byte) :
    fullBlocks (k + j) m = fullBlocks k m ++ fullBlocks j (m.drop (64 * k)) := by
  induction k generalizing m with
  | zero => simp [fullBlocks]
  | succ k ih =>
    rw [Nat.succ_add, fullBlocks, fullBlocks, ih, List.cons_append, List.drop_drop]
    congr 4; omega

@[simp] theorem compressAll_nil (ds : DigestState) : compressAll ds [] = ds := rfl

@[simp] theorem compressAll_cons (ds : DigestState) (b : List Byte) (bs : List (List Byte)) :
    compressAll ds (b :: bs) = compressAll (compress ds b) bs := rfl

theorem compressAll_append (ds : DigestState) (as bs : List (List Byte)) :
    compressAll ds (as ++ bs) = compressAll (compressAll ds as) bs := by simp [compressAll]

theorem leftover_length (m : List Byte) : (leftover m).length = m.length % 64 := by
  simp [leftover, numFull]; omega

end Sys2Proof.Machine
end

