-- ==== Sys2Proof/Laws/State.lean ====
section
/-! SUPPORT. One lemma per field per update of the state, so that no proof unfolds a record update. -/

namespace Sys2Proof.Machine

variable (s : State)

@[simp] theorem State.withDs_ds (v : DigestState) : (s.withDs v).ds = v := rfl
@[simp] theorem State.withDs_cnt (v : DigestState) : (s.withDs v).cnt = s.cnt := rfl
@[simp] theorem State.withDs_buf (v : DigestState) : (s.withDs v).buf = s.buf := rfl
@[simp] theorem State.withDs_fin (v : DigestState) : (s.withDs v).fin = s.fin := rfl
@[simp] theorem State.withDs_resp (v : DigestState) : (s.withDs v).resp = s.resp := rfl
@[simp] theorem State.withDs_dataIn (v : DigestState) : (s.withDs v).dataIn = s.dataIn := rfl
@[simp] theorem State.withDs_inputs (v : DigestState) : (s.withDs v).inputs = s.inputs := rfl

@[simp] theorem State.withCnt_ds (v : Count) : (s.withCnt v).ds = s.ds := rfl
@[simp] theorem State.withCnt_cnt (v : Count) : (s.withCnt v).cnt = v := rfl
@[simp] theorem State.withCnt_buf (v : Count) : (s.withCnt v).buf = s.buf := rfl
@[simp] theorem State.withCnt_fin (v : Count) : (s.withCnt v).fin = s.fin := rfl
@[simp] theorem State.withCnt_resp (v : Count) : (s.withCnt v).resp = s.resp := rfl
@[simp] theorem State.withCnt_dataIn (v : Count) : (s.withCnt v).dataIn = s.dataIn := rfl
@[simp] theorem State.withCnt_inputs (v : Count) : (s.withCnt v).inputs = s.inputs := rfl

@[simp] theorem State.withBuf_ds (v : List Byte) : (s.withBuf v).ds = s.ds := rfl
@[simp] theorem State.withBuf_cnt (v : List Byte) : (s.withBuf v).cnt = s.cnt := rfl
@[simp] theorem State.withBuf_buf (v : List Byte) : (s.withBuf v).buf = v := rfl
@[simp] theorem State.withBuf_fin (v : List Byte) : (s.withBuf v).fin = s.fin := rfl
@[simp] theorem State.withBuf_resp (v : List Byte) : (s.withBuf v).resp = s.resp := rfl
@[simp] theorem State.withBuf_dataIn (v : List Byte) : (s.withBuf v).dataIn = s.dataIn := rfl
@[simp] theorem State.withBuf_inputs (v : List Byte) : (s.withBuf v).inputs = s.inputs := rfl

@[simp] theorem State.withFin_ds (v : SessionStatus) : (s.withFin v).ds = s.ds := rfl
@[simp] theorem State.withFin_cnt (v : SessionStatus) : (s.withFin v).cnt = s.cnt := rfl
@[simp] theorem State.withFin_buf (v : SessionStatus) : (s.withFin v).buf = s.buf := rfl
@[simp] theorem State.withFin_fin (v : SessionStatus) : (s.withFin v).fin = v := rfl
@[simp] theorem State.withFin_resp (v : SessionStatus) : (s.withFin v).resp = s.resp := rfl
@[simp] theorem State.withFin_dataIn (v : SessionStatus) : (s.withFin v).dataIn = s.dataIn := rfl
@[simp] theorem State.withFin_inputs (v : SessionStatus) : (s.withFin v).inputs = s.inputs := rfl

@[simp] theorem State.respond_ds (v : Resp) : (s.respond v).ds = s.ds := rfl
@[simp] theorem State.respond_cnt (v : Resp) : (s.respond v).cnt = s.cnt := rfl
@[simp] theorem State.respond_buf (v : Resp) : (s.respond v).buf = s.buf := rfl
@[simp] theorem State.respond_fin (v : Resp) : (s.respond v).fin = s.fin := rfl
@[simp] theorem State.respond_resp (v : Resp) : (s.respond v).resp = v := rfl
@[simp] theorem State.respond_dataIn (v : Resp) : (s.respond v).dataIn = s.dataIn := rfl
@[simp] theorem State.respond_inputs (v : Resp) : (s.respond v).inputs = s.inputs := rfl

@[simp] theorem State.withData_ds (v : DataPort) : (s.withData v).ds = s.ds := rfl
@[simp] theorem State.withData_cnt (v : DataPort) : (s.withData v).cnt = s.cnt := rfl
@[simp] theorem State.withData_buf (v : DataPort) : (s.withData v).buf = s.buf := rfl
@[simp] theorem State.withData_fin (v : DataPort) : (s.withData v).fin = s.fin := rfl
@[simp] theorem State.withData_resp (v : DataPort) : (s.withData v).resp = s.resp := rfl
@[simp] theorem State.withData_dataIn (v : DataPort) : (s.withData v).dataIn = v := rfl
@[simp] theorem State.withData_inputs (v : DataPort) : (s.withData v).inputs = s.inputs := rfl

@[simp] theorem State.withInputs_ds (v : List HostEvent) : (s.withInputs v).ds = s.ds := rfl
@[simp] theorem State.withInputs_cnt (v : List HostEvent) : (s.withInputs v).cnt = s.cnt := rfl
@[simp] theorem State.withInputs_buf (v : List HostEvent) : (s.withInputs v).buf = s.buf := rfl
@[simp] theorem State.withInputs_fin (v : List HostEvent) : (s.withInputs v).fin = s.fin := rfl
@[simp] theorem State.withInputs_resp (v : List HostEvent) : (s.withInputs v).resp = s.resp := rfl
@[simp] theorem State.withInputs_dataIn (v : List HostEvent) : (s.withInputs v).dataIn = s.dataIn := rfl
@[simp] theorem State.withInputs_inputs (v : List HostEvent) : (s.withInputs v).inputs = v := rfl

@[simp] theorem State.countBytes_cnt (k : Nat) : (s.countBytes k).cnt = cntAdd s.cnt k := rfl
@[simp] theorem State.countBytes_ds (k : Nat) : (s.countBytes k).ds = s.ds := rfl
@[simp] theorem State.countBytes_buf (k : Nat) : (s.countBytes k).buf = s.buf := rfl
@[simp] theorem State.countBytes_fin (k : Nat) : (s.countBytes k).fin = s.fin := rfl
@[simp] theorem State.countBytes_resp (k : Nat) : (s.countBytes k).resp = s.resp := rfl
@[simp] theorem State.countBytes_dataIn (k : Nat) : (s.countBytes k).dataIn = s.dataIn := rfl
@[simp] theorem State.countBytes_inputs (k : Nat) : (s.countBytes k).inputs = s.inputs := rfl

@[simp] theorem State.appendData_buf (n : Nat) : (s.appendData n).buf = s.buf ++ dataBytes s.dataIn n := rfl
@[simp] theorem State.appendData_ds (n : Nat) : (s.appendData n).ds = s.ds := rfl
@[simp] theorem State.appendData_cnt (n : Nat) : (s.appendData n).cnt = s.cnt := rfl
@[simp] theorem State.appendData_fin (n : Nat) : (s.appendData n).fin = s.fin := rfl
@[simp] theorem State.appendData_resp (n : Nat) : (s.appendData n).resp = s.resp := rfl
@[simp] theorem State.appendData_dataIn (n : Nat) : (s.appendData n).dataIn = s.dataIn := rfl
@[simp] theorem State.appendData_inputs (n : Nat) : (s.appendData n).inputs = s.inputs := rfl

@[simp] theorem State.loadInitial_ds : s.loadInitial.ds = iv := rfl
@[simp] theorem State.loadInitial_cnt : s.loadInitial.cnt = 0 := rfl
@[simp] theorem State.loadInitial_buf : s.loadInitial.buf = [] := rfl
@[simp] theorem State.loadInitial_fin : s.loadInitial.fin = .active := rfl
@[simp] theorem State.loadInitial_resp : s.loadInitial.resp = s.resp := rfl
@[simp] theorem State.loadInitial_dataIn : s.loadInitial.dataIn = s.dataIn := rfl
@[simp] theorem State.loadInitial_inputs : s.loadInitial.inputs = s.inputs := rfl

end Sys2Proof.Machine
end

