-- ==== Sys2Proof/Laws/Ops.lean ====
section
/-! SUPPORT. What each shared operation does, said once: compressing a block or a list of blocks into DS, slicing full
blocks off the pending buffer, and the outcome of a command's work. -/

namespace Sys2Proof.Machine

theorem compressBlock_whole (s : State) (blk : List Byte) (h : blk.length = 64) :
    s.compressBlock blk = .ok (s.withDs (compress s.ds blk)) := if_pos h

theorem compressBlock_other (s : State) (blk : List Byte) (h : blk.length ≠ 64) :
    s.compressBlock blk = .error .oversizedChunk := if_neg h

/-- Everything `compressBlock` can do. -/
theorem compressBlock_ok_iff (s t : State) (blk : List Byte) :
    s.compressBlock blk = .ok t ↔ blk.length = 64 ∧ t = s.withDs (compress s.ds blk) := by
  by_cases h : blk.length = 64
  · simp [compressBlock_whole s blk h, h, eq_comm]
  · simp [compressBlock_other s blk h, h]

/-- Whole blocks are compressed in order, and nothing but DS changes. -/
theorem compressBlocks_whole (s : State) (blks : List (List Byte)) (h : ∀ b ∈ blks, b.length = 64) :
    s.compressBlocks blks = .ok (s.withDs (compressAll s.ds blks)) := by
  induction blks generalizing s with
  | nil => rfl
  | cons b bs ih =>
    have hbs : ∀ c ∈ bs, c.length = 64 := fun c hc => h c (by simp [hc])
    simp only [State.compressBlocks, compressBlock_whole s b (h b (by simp)), ih _ hbs, compressAll_cons, State.withDs]

/-- A first block that is not 64 bytes long stops the run. -/
theorem compressBlocks_first_bad (s : State) (b : List Byte) (bs : List (List Byte)) (h : b.length ≠ 64) :
    s.compressBlocks (b :: bs) = .error .oversizedChunk := by
  rw [State.compressBlocks, compressBlock_other s b h]

theorem cntAdd_cntAdd (c : Count) (j k : Nat) : cntAdd (cntAdd c j) k = cntAdd c (j + k) := by
  apply BitVec.eq_of_toNat_eq
  simp only [cntAdd, BitVec.toNat_add, BitVec.toNat_ofNat]
  omega

/-- One turn of the loop of R162 on a buffer that holds a full block. -/
theorem sliceBlocks_succ (s : State) (n : Nat) (h : (s.buf.take 64).length = 64) :
    s.sliceBlocks (n + 1) =
      (((s.withDs (compress s.ds (s.buf.take 64))).countBytes 64).withBuf
        ((s.withDs (compress s.ds (s.buf.take 64))).buf.drop 64)).sliceBlocks n := by
  rw [State.sliceBlocks, compressBlock_whole s _ h]

/-- Writing DS, CNT and BUF twice over is writing them once. -/
theorem session_writes_collapse (s : State) (d e : DigestState) (c c' : Count) (b b' : List Byte) :
    (((((s.withDs d).withCnt c).withBuf b).withDs e).withCnt c').withBuf b' = ((s.withDs e).withCnt c').withBuf b' := rfl

/-- The loop of R162, run `n` times on a buffer that holds `n` full blocks. -/
theorem sliceBlocks_whole (s : State) (n : Nat) (h : 64 * n ≤ s.buf.length) :
    s.sliceBlocks n =
      .ok (((s.withDs (compressAll s.ds (fullBlocks n s.buf))).withCnt (cntAdd s.cnt (64 * n))).withBuf (s.buf.drop (64 * n))) := by
  induction n generalizing s with
  | zero => simp [State.sliceBlocks, fullBlocks, cntAdd, State.withDs, State.withCnt, State.withBuf]
  | succ n ih =>
    have h64 : (s.buf.take 64).length = 64 := by simp; omega
    have h' : 64 * n ≤ (s.buf.drop 64).length := by simp; omega
    have hmul : 64 * (n + 1) = 64 + 64 * n := by omega
    rw [sliceBlocks_succ s n h64, State.withDs_buf, ih _ (by simpa only [State.withBuf_buf] using h'), hmul, fullBlocks,
      compressAll_cons, ← List.drop_drop, ← cntAdd_cntAdd, State.countBytes, State.withBuf_ds, State.withBuf_cnt,
      State.withBuf_buf, State.withCnt_ds, State.withCnt_cnt, State.withDs_ds, State.withDs_cnt, session_writes_collapse]

/-- The whole loop of R162: it never stops, in any state. -/
theorem absorb_eq (s : State) :
    s.absorb =
      .ok (((s.withDs (compressAll s.ds (fullBlocks (s.buf.length / 64) s.buf))).withCnt
        (cntAdd s.cnt (64 * (s.buf.length / 64)))).withBuf (s.buf.drop (64 * (s.buf.length / 64)))) :=
  sliceBlocks_whole s _ (by omega)

@[simp] theorem finish_ok (s : State) : finish (.ok s) = .next s := rfl

@[simp] theorem finish_error (f : Fault) : finish (.error f) = .fault f := rfl

theorem finish_next_iff (r : Except Fault State) (t : State) : finish r = .next t ↔ r = .ok t := by
  cases r <;> simp

end Sys2Proof.Machine
end

