-- ==== Sys2Proof/Laws/PerInstr.lean ====
section
/-! SUPPORT. Statements about the instruction as syntax, one lemma per constructor. Family EncodedFields: the fields of an
instruction's command word (30_encoding.md R61, R62, R65). -/

namespace Sys2Proof.Laws.EncodedFields

/-- The OPC of an instruction (R62). -/
def opcode : Instr → BitVec 4
  | .init => 0x1
  | .update _ => 0x2
  | .final => 0x3

/-- The LEN of an instruction (R64). -/
def length : Instr → BitVec 7
  | .init => 0
  | .update len => len
  | .final => 0

/-- The word holds the instruction's OPC and LEN, and no reserved bit. -/
def Statement (i : Instr) : Prop :=
  opcField (encode i) = opcode i ∧ lenField (encode i) = length i ∧ rsvdField (encode i) = 0

theorem init : Statement .init := by simp [Statement, encode, opcode, length]

theorem update (len : BitVec 7) : Statement (.update len) := by simp [Statement, encode, opcode, length]

theorem final : Statement .final := by simp [Statement, encode, opcode, length]

end Sys2Proof.Laws.EncodedFields
end

