-- ==== Sys2Proof/Laws/Session.lean ====
section
/-! SUPPORT. The work of an Active UPDATE and of an Active FINAL, as one state each. -/

namespace Sys2Proof.Machine

/-- The work of an Active UPDATE, in every state. -/
theorem updateActive_eq (n : Nat) (s : State) :
    updateActive n s =
      .ok ((((s.withDs (compressAll s.ds
          (fullBlocks ((s.buf ++ dataBytes s.dataIn n).length / 64) (s.buf ++ dataBytes s.dataIn n)))).withCnt
            (cntAdd s.cnt (64 * ((s.buf ++ dataBytes s.dataIn n).length / 64)))).withBuf
              ((s.buf ++ dataBytes s.dataIn n).drop (64 * ((s.buf ++ dataBytes s.dataIn n).length / 64)))).respond .ok) := by
  rw [updateActive, absorb_eq, State.appendData_buf, State.appendData_ds, State.appendData_cnt]
  rfl

/-- The work of an Active FINAL whose padding blocks are whole. -/
theorem finalActive_eq (s : State)
    (h : ∀ b ∈ padBlocks s.buf (cntAdd s.cnt s.buf.length), b.length = 64) :
    finalActive s =
      .ok (((s.withCnt (cntAdd s.cnt s.buf.length)).withDs
        (compressAll s.ds (padBlocks s.buf (cntAdd s.cnt s.buf.length)))).closeSession) := by
  have hs := compressBlocks_whole (s.countBytes s.buf.length) _ h
  rw [finalActive, State.countBytes_buf, State.countBytes_cnt, hs]
  rfl

end Sys2Proof.Machine
end

