-- ==== Sys2Proof/Laws/Step.lean ====
section
/-! SUPPORT. What a step does, by the event that stands first. -/

namespace Sys2Proof.Machine

theorem step_idle (s : State) (h : s.inputs = []) : step s = .next s := by simp [step, h]

theorem step_event (s : State) (e : HostEvent) (es : List HostEvent) (h : s.inputs = e :: es) :
    step s = deliver e (s.withInputs es) := by simp [step, h]

theorem execute_decoded (w : CmdWord) (i : Instr) (s : State) (h : decode w = .ok i) : execute w s = exec i s := by
  simp [execute, h]

theorem execute_refused (w : CmdWord) (e : DecodeError) (s : State) (h : decode w = .error e) :
    execute w s = .next (s.respond .badCommand) := by simp [execute, h]

/-- Everything a command word can do: run as one of the three commands, or answer BAD_COMMAND. -/
theorem execute_cases (w : CmdWord) (s : State) :
    (∃ i, decode w = .ok i ∧ execute w s = exec i s) ∨
      (∃ e, decode w = .error e ∧ execute w s = .next (s.respond .badCommand)) := by
  cases h : decode w with
  | ok i => exact .inl ⟨i, rfl, execute_decoded w i s h⟩
  | error e => exact .inr ⟨e, rfl, execute_refused w e s h⟩

end Sys2Proof.Machine
end

