-- ==== Sys2Proof/Tests/Slice0.lean ====
section
/-! SUPPORT. The model's own tests (expected values from 95_test_vectors.md and from the rules' own examples, each named
in its comment), and, for every statement with hypotheses, a witness: a concrete state and operands that meet them. -/

/-! One theorem at a time: evaluated in parallel, so many of them want more threads than the sandbox gives one process. -/
set_option Elab.async false

namespace Sys2Proof.Tests

open Sys2Proof.Machine

/-! Helpers -/

/-- The state a step leads to. -/
def nextOf : Host.Outcome State Fault Refusal → Option State
  | .next s => some s
  | .fault _ => none
  | .refused _ => none

/-- The fault a step ends in. -/
def faultOf : Host.Outcome State Fault Refusal → Option Fault
  | .next _ => none
  | .fault f => some f
  | .refused _ => none

/-- RESP, STATUS_OUT and CNT_OUT after a step. -/
def portsOf (o : Host.Outcome State Fault Refusal) : Option (BitVec 4 × BitVec 32 × BitVec 64) :=
  (nextOf o).map fun s => (s.respOut, s.statusOut, s.cntOut)

/-- DIGEST_OUT after a step, as the hex text of 42_padding_finalizer.md R147. -/
def digestHexOf (o : Host.Outcome State Fault Refusal) : Option (List Char) :=
  (nextOf o).map fun s => hexRender ((List.range 16).map fun k => s.digestOut.extractLsb' (8 * k) 8)

/-- An Active session whose pending buffer holds `n` bytes 'a' and whose DATA port holds 64 bytes 'a'. -/
def active (n : Nat) : State :=
  { State.reset with buf := List.replicate n 0x61, dataIn := packLanes (List.replicate 64 0x61) }

/-- The session of "abc" after FINAL (V-U8). -/
def finalized : State :=
  { State.reset with ds := ⟨0x7a0148a4, 0x52d821af, 0xe80ac15f, 0x9d72a67a⟩, cnt := 24, fin := .finalized }

/-- A state in which the host writes a word to CMD next. -/
def writes (s : State) (w : CmdWord) : State := { s with inputs := [.writeCmd w] }

def abc : List Byte := [0x61, 0x62, 0x63]

def zeroDs : DigestState := ⟨0, 0, 0, 0⟩

/-- A next state that the kernel finds by evaluation. -/
theorem has_next (o : Host.Outcome State Fault Refusal) (h : (nextOf o).isSome = true) : ∃ t, o = .next t := by
  cases o with
  | next t => exact ⟨t, rfl⟩
  | fault f => simp [nextOf] at h
  | refused r => simp [nextOf] at h

/-! WellFormed: the one check, and the terms it refuses (R64) -/

theorem test_wf_update_65_refused : ¬ (Instr.update 65).WellFormed := by decide
theorem test_wf_update_127_refused : ¬ (Instr.update 127).WellFormed := by decide
theorem test_wf_boundaries : (Instr.update 0).WellFormed ∧ (Instr.update 64).WellFormed ∧ Instr.init.WellFormed ∧ Instr.final.WellFormed := by
  decide

/-! Decoding (V-E1 to V-E14, and words written bit by bit: RSVD, LEN, OPC) -/

theorem test_decode_init : decode 0b000000000000000000000_0000000_0001#32 = .ok .init := by decide
theorem test_decode_update_3 : decode 0b000000000000000000000_0000011_0010#32 = .ok (.update 3) := by decide
theorem test_decode_update_64 : decode 0b000000000000000000000_1000000_0010#32 = .ok (.update 64) := by decide
theorem test_decode_final : decode 0b000000000000000000000_0000000_0011#32 = .ok .final := by decide
theorem test_decode_table_rows :
    decodeTableWord 32 0x00000001 = some .init ∧ decodeTableWord 32 0x00000002 = some (.update 0) ∧
    decodeTableWord 32 0x00000003 = some .final ∧ decodeTableWord 8 0xff01 = some .init := by decide
theorem test_decode_refuses :
    decode 0x00000000#32 = .error .reservedOpcode ∧ decode 0x0000000f#32 = .error .reservedOpcode ∧
    decode 0x00000412#32 = .error .chunkTooLong ∧ decode 0x00000011#32 = .error .lenNotZero ∧
    decode 0x00000013#32 = .error .lenNotZero ∧ decode 0x00000802#32 = .error .reservedBits ∧
    decode 0x80000001#32 = .error .reservedBits := by decide
theorem test_encode_words : encode .init = 0x1#32 ∧ encode (.update 14) = 0xE2#32 ∧ encode .final = 0x3#32 := by decide

/-! BlockCompressor (V-M2 to V-M5, V-ROT2, V-ROT6, V-C1, V-C2, V-C4) -/

theorem test_mixing_functions :
    mixF 0xffffffff 0x12345678 0x9abcdef0 = 0x12345678 ∧ mixG 0x00000000 0x12345678 0x9abcdef0 = 0x12345670 ∧
    mixH 0x12345678 0xedcba987 0x9abcdef0 = 0x6543210f := by decide
theorem test_rotl32 : rotl32 0x12345678 19 = 0xb3c091a2 ∧ rotl32 0x80000000 7 = 0x00000040 := by decide
theorem test_compress_empty_padding :
    compress iv (0x80 :: zeros 63) = ⟨0xe0cfd631, 0x31e96ad1, 0xd7593cb7, 0xc089c0e0⟩ := by decide +kernel
theorem test_compress_zero : compress zeroDs (zeros 64) = ⟨0x33c84836, 0xc19152d1, 0xe762d9df, 0xa20027bd⟩ := by decide +kernel
theorem test_first_round_end :
    mixRound (messageWords (0x80 :: zeros 63)) iv .one = ⟨0xaddcb303, 0x3665f296, 0x8ee8f245, 0xa483a664⟩ := by decide +kernel

/-! BitCounter (V-K3, V-K5, V-K6), both forms -/

theorem test_counter :
    cntAdd 0x00000000fffffff8 1 = 0x0000000100000000 ∧ cntAdd 0xfffffffffffffe00 64 = 0 ∧
    cntAdd 0xfffffffffffffff8 63 = 0x1f0 := by decide
theorem test_serial_counter :
    cntAddSerial 0x00fffffffffffe00 64 = 0x0100000000000000 ∧ cntAddSerial 0xfffffffffffffff8 63 = 0x1f0 := by decide

/-! Padding (V-P2, V-P4), length field (section 5's L values) and hex rendering -/

theorem test_pad_abc : padBlocks abc 24 = [abc ++ 0x80 :: zeros 52 ++ 0x18 :: zeros 7] := by decide
theorem test_pad_56 :
    padBlocks (List.replicate 56 0x61) 448 =
      [List.replicate 56 0x61 ++ 0x80 :: zeros 7, zeros 56 ++ 0xc0 :: 0x01 :: zeros 6] := by decide +kernel
theorem test_length_bytes : bytesLe64 0x0123456789abcdef = [0xef, 0xcd, 0xab, 0x89, 0x67, 0x45, 0x23, 0x01] := by decide +kernel
theorem test_md4_a : hexRender (md4 [0x61]) = "bde52cb31de33e46245e05fbdbd6fb24".toList := by decide +kernel
theorem test_md4_message_digest :
    hexRender (md4 [0x6d, 0x65, 0x73, 0x73, 0x61, 0x67, 0x65, 0x20, 0x64, 0x69, 0x67, 0x65, 0x73, 0x74]) =
      "d9130a8164549fe818874806e1c7014b".toList := by decide +kernel

/-! The commands, one step each (section 8) -/

/-- V-U11. -/
theorem test_init_after_finalized :
    portsOf (step (writes finalized 0x1)) = some (0, 0, 0) ∧
    digestHexOf (step (writes finalized 0x1)) = some "0123456789abcdeffedcba9876543210".toList := by decide +kernel

/-- V-U3 with lanes beyond LEN not zero. -/
theorem test_update_abc_buffers :
    (nextOf (step (writes { State.reset with dataIn := packLanes (abc ++ [0xff]) } 0x32))).map (·.buf) = some abc := by decide +kernel

/-- V-U4: 60 bytes 'a' pending, UPDATE 10 with bytes 'b' (the vector leaves its bytes unsaid; with these its digest
agrees). -/
theorem test_update_over_a_block :
    let s : State := { active 60 with dataIn := packLanes (List.replicate 10 0x62) }
    portsOf (step (writes s 0xa2)) = some (0, 0x600, 0x200) ∧
    digestHexOf (step (writes s 0xa2)) = some "4dedc4487b2bb65aea7b3b1cea2615ec".toList := by decide +kernel

/-- V-U10 and V-U16. -/
theorem test_update_after_final_answers :
    portsOf (step (writes finalized 0x12)) = some (1, 1, 0x18) ∧ portsOf (step (writes finalized 0x412)) = some (2, 1, 0x18) := by
  decide +kernel

/-- V-U18: two padding blocks. -/
theorem test_final_two_blocks :
    portsOf (step (writes (active 56) 0x3)) = some (0, 1, 0x1c0) ∧
    digestHexOf (step (writes (active 56) 0x3)) = some "d5f9a9e9257077a5f08b0b92f348b0ad".toList := by decide +kernel

/-- V-U8. -/
theorem test_final_again :
    portsOf (step (writes finalized 0x3)) = some (0, 1, 0x18) ∧
    digestHexOf (step (writes finalized 0x3)) = some "a448017aaf21d8525fc10ae87aa6729d".toList := by decide +kernel

/-- V-U12: an illegal word while Active. -/
theorem test_illegal_word_keeps_state : portsOf (step (writes (active 3) 0)) = some (2, 0x300, 0) := by decide +kernel

/-- R230, R233: the events that are no command. -/
theorem test_reset_and_busy :
    nextOf (step { finalized with inputs := [.reset] }) = some State.reset ∧
    nextOf (step { active 3 with inputs := [.resetDuring 0x402], dataIn := 0 }) = some State.reset ∧
    faultOf (step { active 3 with inputs := [.writeCmdBusy 0x1] }) = some .commandWhileBusy := by decide +kernel

/-- The three rows of the opcode table, run as the first command after reset. -/
theorem test_first_command_after_reset :
    nextOf (step (State.reset.withFetchWord 32 0x1)) = some State.reset ∧
    nextOf (step (State.reset.withFetchWord 32 0x2)) = some State.reset ∧
    portsOf (step (State.reset.withFetchWord 32 0x3)) = some (0, 1, 0) := by decide +kernel

/-! The assembler (P1, P3 of section 9; R70, R71) -/

theorem test_assemble_p1 :
    assembleProgram ["INIT".toList, "UPDATE 3, \"abc\"".toList, "FINAL".toList] =
      .ok [.writeCmd 0x1, .driveData (packLanes abc), .writeCmd 0x32, .writeCmd 0x3] := by decide +kernel
theorem test_assemble_forms :
    assembleText "update 3, 0x61, 0x62, 0x63 ; abc".toList = .error .badToken ∧
    assembleText "NOP        ; = UPDATE 0".toList = .ok [.writeCmd 0x2] ∧
    assembleText ".word 0x00000412   ; UPDATE LEN 65".toList = .ok [.writeCmd 0x412] ∧
    assembleText "UPDATE \"a\\x62c\"".toList = .ok [.driveData (packLanes abc), .writeCmd 0x32] ∧
    assembleText "UPDATE 2, \"abc\"".toList = .error .byteCountMismatch := by decide +kernel

/-! Witnesses: for every statement with hypotheses, concrete values that meet them all, clause by clause, at the ends of
their ranges. -/

theorem witness_EncodedWordsOfTheCommandTable :
    (0 : BitVec 7).toNat ≤ 64 ∧ (64 : BitVec 7).toNat ≤ 64 ∧ Instr.init.WellFormed ∧ (Instr.update 64).WellFormed := by decide

theorem witness_DecodeOfEncodeIsTheCommand :
    Instr.init.WellFormed ∧ (Instr.update 0).WellFormed ∧ (Instr.update 64).WellFormed ∧ Instr.final.WellFormed := by decide

theorem witness_EncodeOfDecodeIsTheWord : decode 0x00000402#32 = .ok (.update 64) := by decide

theorem witness_DecoderAcceptsExactlyTheLegalWords :
    Legal 0x00000402#32 ∧ ¬ Legal 0x00000412#32 ∧ ¬ Legal 0xffffffff#32 := by decide

theorem active_inv : (active 63).Inv := by decide +kernel

theorem finalized_inv : finalized.Inv := by decide +kernel

/-- With every word, so with one for each of the four causes and with a legal one. -/
theorem witness_BadCommandExactlyOnTheFourCauses (w : CmdWord) :
    (writes (active 63) w).Inv ∧ (writes (active 63) w).inputs = .writeCmd w :: [] := ⟨active_inv, rfl⟩

theorem witness_RejectedCommandWritesNoState :
    (¬ Legal 0x00000412#32 ∧ (writes finalized 0x412).inputs = .writeCmd 0x412 :: []) ∧
    (¬ Legal 0x80000001#32 ∧ (writes (active 63) 0x80000001).inputs = .writeCmd 0x80000001 :: []) := by decide +kernel

/-- Both statuses, with every word; and a word of each response. -/
theorem witness_EveryCommandAnswersItsTableResponse (w : CmdWord) :
    ((writes (active 63) w).Inv ∧ (writes (active 63) w).inputs = .writeCmd w :: []) ∧
    ((writes finalized w).Inv ∧ (writes finalized w).inputs = .writeCmd w :: []) ∧
    (nextOf (step (writes finalized 0x12))).map (·.resp) = some .alreadyFinalized ∧
    (nextOf (step (writes finalized 0x4))).map (·.resp) = some .badCommand ∧
    (nextOf (step (writes finalized 0x2))).map (·.resp) = some .ok :=
  ⟨⟨active_inv, rfl⟩, ⟨finalized_inv, rfl⟩, by decide +kernel⟩

theorem witness_MixingFunctionsBitByBit : 0 < 32 ∧ 31 < 32 := by decide

theorem witness_RotationsAreCircular : (0 < 1 ∧ 1 < 32) ∧ (0 < 31 ∧ 31 < 32) := by decide

theorem witness_MessageWordsAreLittleEndian : (abc ++ 0x80 :: zeros 60).length = 64 ∧ 15 < 16 ∧ 3 < 4 := by decide

theorem witness_LittleEndianBytesInvert : 0 < 8 ∧ 7 < 8 := by decide

theorem witness_CommandsAdvanceTheCounter :
    ∀ s ∈ [active 0, active 63, finalized], ∀ i ∈ [Instr.init, .update 0, .update 64, .final], s.Inv ∧ i.WellFormed := by
  decide +kernel

/-- A counter one block short of the wrap (P5), a full block in the first clause, and 0 and 63 leftover bytes in the
second. -/
theorem witness_CounterWrapsSilently :
    (∀ s ∈ [{ active 63 with cnt := 0xfffffffffffffe00 }],
      s.fin = .active ∧ s.buf.length ≤ 63 ∧ (1 : BitVec 7).toNat ≤ 64 ∧ 64 ≤ s.buf.length + (1 : BitVec 7).toNat) ∧
    ∀ n ∈ [0, 63], (active n).fin = .active ∧ (active n).buf.length ≤ 63 := by decide +kernel

theorem witness_FirstPaddingBlockLayout :
    ([] : List Byte).length ≤ 63 ∧ (List.replicate 63 (0x61 : Byte)).length ≤ 63 ∧ 62 < (List.replicate 63 (0x61 : Byte)).length ∧
    ([] : List Byte).length < 63 ∧ 63 ≤ 63 := by decide

theorem witness_OneBlockPaddingLayout :
    ([] : List Byte).length ≤ 55 ∧ (List.replicate 55 (0x61 : Byte)).length ≤ 55 ∧ 54 < (List.replicate 55 (0x61 : Byte)).length ∧
    (List.replicate 54 (0x61 : Byte)).length < 55 ∧ 55 < 56 ∧ 7 < 8 := by decide

theorem witness_TwoBlockPaddingLayout :
    (∀ n ∈ [56, 63], 56 ≤ (List.replicate n (0x61 : Byte)).length ∧ (List.replicate n (0x61 : Byte)).length ≤ 63) ∧
    (List.replicate 56 (0x61 : Byte)).length < 57 ∧ 62 < (List.replicate 63 (0x61 : Byte)).length ∧ 55 ≤ 55 ∧ 7 < 8 := by decide

theorem witness_DigestSerialization : 3 < 4 ∧ 0 < 4 := by decide

/-- The events of the clauses that say "neither a command nor a reset". -/
theorem driving_is_no_command_or_reset (s : State) :
    let t : State := { s with inputs := [.driveData 1] }
    (∃ u, step t = .next u) ∧ (∀ w es, t.inputs ≠ .writeCmd w :: es) ∧ (∀ es, t.inputs ≠ .reset :: es) ∧
    (∀ w es, t.inputs ≠ .resetDuring w :: es) :=
  ⟨⟨_, rfl⟩, by simp, by simp, by simp⟩

theorem witness_StatusAndCounterPorts :
    ((active 0).buf.length ≤ 63 ∧ (active 63).buf.length ≤ 63 ∧ 7 < 8) ∧
    let t : State := { finalized with inputs := [.driveData 1] }
    (∃ u, step t = .next u) ∧ (∀ w es, t.inputs ≠ .writeCmd w :: es) ∧ (∀ es, t.inputs ≠ .reset :: es) ∧
    (∀ w es, t.inputs ≠ .resetDuring w :: es) :=
  ⟨by decide, driving_is_no_command_or_reset finalized⟩

theorem active_represents : (active 63).Represents (List.replicate 63 0x61) := by
  refine ⟨?_, ?_, ?_⟩ <;> decide +kernel

/-- The session of "abc" is the one its digest ends (V-S3). -/
theorem finalized_represents : finalized.Represents abc := by
  refine ⟨?_, ?_, ?_⟩ <;> decide +kernel

theorem witness_DigestPortOfASession :
    ((active 63).Represents (List.replicate 63 0x61) ∧ (active 63).fin = .active) ∧
    (finalized.Represents abc ∧ finalized.fin = .finalized) ∧ 15 < 16 ∧
    let t : State := { finalized with inputs := [.driveData 1] }
    (∃ u, step t = .next u) ∧ (∀ w es, t.inputs ≠ .writeCmd w :: es) ∧ (∀ es, t.inputs ≠ .reset :: es) ∧
    (∀ w es, t.inputs ≠ .resetDuring w :: es) :=
  ⟨⟨active_represents, rfl⟩, ⟨finalized_represents, rfl⟩, by decide, driving_is_no_command_or_reset finalized⟩

theorem witness_InitStartsANewSession : ∃ t, exec .init finalized = .next t :=
  has_next _ (by decide +kernel)

/-- Without a full block, with exactly one, with one and a rest, and the empty UPDATE. -/
theorem witness_ActiveUpdateAppendsAndCompresses :
    (∀ n ∈ [0, 63], (active n).fin = .active ∧ (active n).buf.length ≤ 63) ∧ (64 : BitVec 7).toNat ≤ 64 ∧
    ((active 62).buf ++ dataBytes (active 62).dataIn 1).length < 64 ∧
    ((active 63).buf ++ dataBytes (active 63).dataIn 1).length = 64 ∧
    64 ≤ ((active 63).buf ++ dataBytes (active 63).dataIn 64).length ∧ (0 : BitVec 7).toNat ≤ 64 := by decide +kernel

theorem witness_FinalizedUpdateWritesNoState :
    finalized.fin = .finalized ∧ (0 : BitVec 7).toNat ≤ 64 ∧ (64 : BitVec 7).toNat ≤ 64 := by decide

/-- A state of R36, and one that breaks it. -/
theorem witness_UpdateRunsItsLoopInEveryState :
    (active 63).fin = .active ∧ (active 64).fin = .active ∧ (64 : BitVec 7).toNat ≤ 64 := by decide

/-- 0 and 55 leftover bytes (one block), 56 and 63 (two), and the two messages of the rule. -/
theorem witness_ActiveFinalPadsAndCloses :
    (∀ n ∈ [0, 55], (active n).fin = .active ∧ (active n).buf.length ≤ 63 ∧ (active n).buf.length ≤ 55) ∧
    (∀ n ∈ [56, 63], (active n).fin = .active ∧ (active n).buf.length ≤ 63 ∧ 55 < (active n).buf.length) ∧
    ((active 0).fin = .active ∧ (active 0).ds = iv ∧ (active 0).cnt = 0 ∧ (active 0).buf = []) ∧
    ∀ s ∈ [{ active 0 with buf := abc }], s.fin = .active ∧ s.ds = iv ∧ s.cnt = 0 ∧ s.buf = [0x61, 0x62, 0x63] := by
  decide +kernel

theorem witness_FinalizedFinalIsIdempotent : finalized.fin = .finalized ∧ ∃ t, exec .final finalized = .next t :=
  ⟨rfl, has_next _ (by decide +kernel)⟩

theorem witness_FinalOfAnOversizedBufferFaults : (active 64).fin = .active ∧ 63 < (active 64).buf.length := by decide

theorem witness_OnlyUpdateIsNotIdempotent :
    ((∀ len, decode 0x00000001#32 ≠ .ok (.update len)) ∧ (∀ len, decode 0x00000003#32 ≠ .ok (.update len)) ∧
      (∀ len, decode 0x00000412#32 ≠ .ok (.update len)) ∧ (active 63).Inv ∧ finalized.Inv) ∧
    ((active 63).fin = .active ∧ decode 0x00000012#32 = .ok (.update 1) ∧ 1 ≤ (1 : BitVec 7).toNat) := by decide +kernel

theorem witness_EmptyUpdateIsANop : (active 63).Inv ∧ finalized.Inv := ⟨active_inv, finalized_inv⟩

theorem witness_CompressionsPerCommand :
    (∀ s ∈ [active 0, active 55, active 56, active 63, finalized], ∀ i ∈ [Instr.init, .update 0, .update 64, .final],
      s.Inv ∧ i.WellFormed) ∧ ¬ Legal 0x00000013#32 := by decide +kernel

/-- A command, an interrupted command, a reset, and an event of the last clause. -/
theorem witness_DigestStateChangesOnlyByCompression :
    (∃ t, step (writes (active 63) 0x402) = .next t) ∧ decode 0x00000402#32 = .ok (.update 64) ∧
    (∃ t, step { active 63 with inputs := [.resetDuring 0x402] } = .next t) ∧
    (∃ t, step { active 63 with inputs := [.reset] } = .next t) ∧
    (∃ t, step { active 63 with inputs := [.driveData 1] } = .next t) ∧
    (∀ (w : CmdWord) (es : List HostEvent) (i : Instr), [HostEvent.driveData 1] = .writeCmd w :: es → decode w ≠ .ok i) ∧
    (∀ es, [HostEvent.driveData 1] ≠ .reset :: es) ∧ (∀ w es, [HostEvent.driveData 1] ≠ .resetDuring w :: es) :=
  ⟨has_next _ (by decide +kernel), by decide, has_next _ (by decide +kernel), has_next _ (by decide +kernel), has_next _ (by decide +kernel), by simp, by simp, by simp⟩

theorem witness_FinChangesOnlyAsTheRuleSays :
    (∃ t, exec .final (active 3) = .next t) ∧ (∃ t, exec (.update 64) finalized = .next t) ∧ finalized.fin = .finalized ∧
    Instr.update 64 ≠ .init ∧ (¬ Legal 0x00000000#32 ∧ ∃ t, execute 0x00000000#32 finalized = .next t) ∧
    (∃ t, step { finalized with inputs := [.reset] } = .next t) :=
  ⟨has_next _ (by decide +kernel), has_next _ (by decide +kernel), rfl, by decide, ⟨by decide, has_next _ (by decide +kernel)⟩, has_next _ (by decide +kernel)⟩

theorem witness_UnreadDataLanesDoNotMatter :
    (∃ t, exec .init (active 3) = .next t) ∧ (∃ t, exec .final (active 3) = .next t) ∧
    (∃ t, exec (.update 1) (active 3) = .next t) ∧
    ∀ k, k < (1 : BitVec 7).toNat →
      (packLanes [0x61, 0xff]).extractLsb' (8 * k) 8 = (active 3).dataIn.extractLsb' (8 * k) 8 := by
  refine ⟨has_next _ (by decide +kernel), has_next _ (by decide +kernel), has_next _ (by decide +kernel), ?_⟩
  decide +kernel

theorem witness_CommandsLeaveTheHostSideAlone :
    (∃ t, exec .init (active 3) = .next t) ∧ (∃ t, exec (.update 64) (active 3) = .next t) ∧
    ∃ t, exec .final (active 3) = .next t :=
  ⟨has_next _ (by decide +kernel), has_next _ (by decide +kernel), has_next _ (by decide +kernel)⟩

theorem witness_FinalizedSessionKeepsItsDigest :
    let s : State := { finalized with inputs := [.writeCmd 0x3, .writeCmd 0x12, .driveData 1] }
    s.fin = .finalized ∧
    (∀ e ∈ s.inputs, e ≠ .reset ∧ (∀ w, e ≠ .resetDuring w) ∧ ∀ w, e = .writeCmd w → decode w ≠ .ok .init) ∧
    ∃ t, runSteps 4 s = .next t := by
  refine ⟨rfl, ?_, has_next _ (by decide +kernel)⟩
  intro e he
  simp only [List.mem_cons, List.not_mem_nil, or_false] at he
  rcases he with rfl | rfl | rfl <;> refine ⟨by simp, by simp, ?_⟩ <;> intro w hw <;> cases hw <;> decide

theorem witness_StepRunsTheDecodedCommand :
    (writes finalized 0x402).inputs = .writeCmd 0x402 :: [] ∧ decode 0x402 = .ok (.update 64) ∧
    decodeTableWord 32 0x402 = some (.update 64) := by decide

theorem witness_OnlyCommandsAndResetsChangeTheSession :
    finalized.inputs = [] ∧ ({ finalized with inputs := [.readPort .digest] } : State).inputs = .readPort .digest :: [] ∧
    let t : State := { finalized with inputs := [.driveData 1] }
    t.inputs = .driveData 1 :: [] ∧ (∃ u, step t = .next u) ∧ (∀ w es, t.inputs ≠ .writeCmd w :: es) ∧
    (∀ es, t.inputs ≠ .reset :: es) ∧ (∀ w es, t.inputs ≠ .resetDuring w :: es) :=
  ⟨rfl, rfl, rfl, driving_is_no_command_or_reset finalized⟩

theorem witness_DataIsSampledWhenTheCommandStarts :
    ({ active 3 with inputs := [.driveData 1, .writeCmd 0x402] } : State).inputs = .driveData 1 :: .writeCmd 0x402 :: [] ∧
    let s : State := { active 3 with inputs := [.writeCmd 0x402, .driveData 1] }
    s.inputs = .writeCmd 0x402 :: .driveData 1 :: [] ∧ ∃ t, step s = .next t :=
  ⟨rfl, rfl, has_next _ (by decide +kernel)⟩

theorem witness_ResetValues : ∃ t, exec .init finalized = .next t :=
  has_next _ (by decide +kernel)

theorem witness_ResetEqualsInit :
    ({ finalized with inputs := [.reset] } : State).inputs = .reset :: [] ∧
    ({ active 60 with inputs := [.resetDuring 0xa2] } : State).inputs = .resetDuring 0xa2 :: [] :=
  ⟨rfl, rfl⟩

theorem witness_CommandWrittenWhileBusyHasNoStep :
    ({ active 60 with inputs := [.writeCmdBusy 0x1] } : State).inputs = .writeCmdBusy 0x1 :: [] := rfl

theorem witness_StepKeepsTheInvariant :
    (writes (active 63) 0x402).Inv ∧ (∃ t, step (writes (active 63) 0x402) = .next t) ∧
    (writes finalized 0x3).Inv ∧ ∃ t, step (writes finalized 0x3) = .next t :=
  ⟨by decide +kernel, has_next _ (by decide +kernel), by decide, has_next _ (by decide +kernel)⟩

theorem witness_StepKeepsTheSessionMessage :
    (writes (active 63) 0x402).Represents (List.replicate 63 0x61) ∧ (∃ t, step (writes (active 63) 0x402) = .next t) ∧
    (writes finalized 0x12).Represents abc ∧ ∃ t, step (writes finalized 0x12) = .next t :=
  ⟨active_represents, has_next _ (by decide +kernel), finalized_represents, has_next _ (by decide +kernel)⟩

/-- A run that ends Active and one that ends Finalized. -/
theorem witness_ReachableStatesMeetTheSpecInvariants :
    ∀ s ∈ [{ State.reset with inputs := [.writeCmd 0x32, .writeCmd 0x3], dataIn := packLanes abc }],
      (∃ t, runSteps 1 s = .next t) ∧ (nextOf (runSteps 1 s)).map (·.fin) = some .active ∧
      (∃ t, runSteps 2 s = .next t) ∧ (nextOf (runSteps 2 s)).map (·.fin) = some .finalized := by
  intro s hs
  rw [List.mem_singleton.1 hs]
  refine ⟨has_next _ ?_, ?_, has_next _ ?_, ?_⟩ <;> decide +kernel

theorem witness_HashComputesTheDigestOfTheMessage :
    ({ finalized with inputs := issueHash abc ++ [.readPort .digest] } : State).inputs = issueHash abc ++ [.readPort .digest] := rfl

/-- V-Q: "abc" as one chunk, and as three with an empty one among them. -/
theorem witness_StreamingLeavesTheSameSession :
    (∀ c ∈ [[0x61], [], [0x62, 0x63]], (c : List Byte).length ≤ 64) ∧ (∀ c ∈ [abc], c.length ≤ 64) ∧
    ([[0x61], [], [0x62, 0x63]] : List (List Byte)).flatten = [abc].flatten ∧
    ({ finalized with inputs := issue .init ++ [abc].flatMap issueUpdate ++ issue .final } : State).inputs =
      issue .init ++ [abc].flatMap issueUpdate ++ issue .final := by
  refine ⟨?_, ?_, ?_, rfl⟩ <;> decide

theorem witness_InstancesAreIndependent :
    (∃ t, step ([writes (active 3) 0x3, finalized].get ⟨0, by decide⟩) = .next t) ∧ 1 ≠ 0 := ⟨has_next _ (by decide +kernel), by decide⟩

theorem witness_AssembledUpdateReadsBack :
    (abc.length = 3 ∧ 3 ≤ 64 ∧ 0 < 3) ∧ ((List.replicate 64 (0x61 : Byte)).length = 64 ∧ 64 ≤ 64 ∧ 0 < 64) ∧
    (0 = 0 ∧ ([] : List Byte) = []) := by decide

theorem witness_AbsorbChunksCarryTheMessage :
    0 < (List.replicate 65 (0x61 : Byte)).length / 64 ∧ (List.replicate 65 (0x61 : Byte)).length % 64 ≠ 0 := by decide

end Sys2Proof.Tests
end

section
/-! PROOFS. Little-endian assembly (00_scope.md R13): byte k of an assembled value is element k of its bytes, a value is
determined by its bytes, and the two facts make assembly and the byte functions inverse to each other. -/

namespace Sys2Proof.Machine

/-- A value of a whole number of bytes is determined by them. -/
theorem eq_of_bytes_eq {n : Nat} {u v : BitVec (8 * n)}
    (h : ∀ k, k < n → u.extractLsb' (8 * k) 8 = v.extractLsb' (8 * k) 8) : u = v := by
  ext i hi
  have hbit := congrArg (·.getLsbD (i % 8)) (h (i / 8) (by omega))
  simpa [Nat.mod_lt, Nat.div_add_mod, BitVec.getLsbD_eq_getElem hi] using hbit

theorem map_getD_range {cs : List Byte} {n : Nat} (hn : cs.length = n) : (List.range n).map (cs.getD · 0) = cs := by
  subst hn
  apply List.ext_getElem <;> simp +contextual

/-! Words -/

theorem bytesLe32_eq_map (w : Word) : bytesLe32 w = (List.range 4).map fun k => w.extractLsb' (8 * k) 8 := rfl

theorem byte_le32 (b0 b1 b2 b3 : Byte) (k : Nat) (hk : k < 4) :
    (le32 b0 b1 b2 b3).extractLsb' (8 * k) 8 = [b0, b1, b2, b3].getD k 0 := by
  ext i hi
  interval_cases k <;> grind [le32]

theorem bytesLe32_le32 (b0 b1 b2 b3 : Byte) : bytesLe32 (le32 b0 b1 b2 b3) = [b0, b1, b2, b3] := by
  rw [bytesLe32_eq_map, List.map_congr_left fun k hk => byte_le32 b0 b1 b2 b3 k (List.mem_range.1 hk)]
  rfl

theorem le32_bytes (w : Word) :
    le32 (w.extractLsb 7 0) (w.extractLsb 15 8) (w.extractLsb 23 16) (w.extractLsb 31 24) = w := by
  refine eq_of_bytes_eq (n := 4) fun k hk => ?_
  rw [byte_le32 _ _ _ _ k hk]
  interval_cases k <;> rfl

/-! Counts -/

theorem bytesLe64_getD (v : Count) (k : Nat) (hk : k < 8) : (bytesLe64 v).getD k 0 = countByte v k := by
  simp [bytesLe64, hk]

/-- The sum of `le64` has no carries: the first byte fills the eight bits that the shift of the rest leaves free. -/
theorem le64_cons_eq_or (c : Byte) (cs : List Byte) : le64 (c :: cs) = c.setWidth 64 ||| le64 cs <<< 8 := by
  have hmul : le64 cs * (256 : Count) = le64 cs <<< 8 := by rw [BitVec.shiftLeft_eq_mul_twoPow]; rfl
  rw [le64, hmul]
  apply BitVec.add_eq_or_of_and_eq_zero
  ext i hi
  simp only [BitVec.getElem_and, BitVec.getElem_zero]
  grind

theorem countByte_le64 (cs : List Byte) (k : Nat) (hk : k < 8) : countByte (le64 cs) k = cs.getD k 0 := by
  induction cs generalizing k with
  | nil => simp [le64, countByte]
  | cons c cs ih =>
    rw [le64_cons_eq_or]
    cases k with
    | zero =>
      ext i hi
      grind [countByte]
    | succ k =>
      rw [List.getD_cons_succ, ← ih k (by omega)]
      ext i hi
      grind [countByte]

theorem bytesLe64_le64 (cs : List Byte) (hc : cs.length = 8) : bytesLe64 (le64 cs) = cs := by
  rw [bytesLe64, List.map_congr_left fun k hk => countByte_le64 cs k (List.mem_range.1 hk), map_getD_range hc]

theorem le64_bytesLe64 (v : Count) : le64 (bytesLe64 v) = v :=
  eq_of_bytes_eq (n := 8) fun k hk => (countByte_le64 _ k hk).trans (bytesLe64_getD v k hk)

/-- Bytes beyond the eighth fall off the top of the counter. -/
theorem le64_toNat (cs : List Byte) : (le64 cs).toNat = Nat.ofDigits 256 (cs.map BitVec.toNat) % 2 ^ 64 := by
  induction cs with
  | nil => rfl
  | cons c cs ih =>
    simp only [le64, List.map_cons, Nat.ofDigits_cons, BitVec.toNat_add, BitVec.toNat_mul, BitVec.toNat_setWidth, ih,
      show (256 : Count).toNat = 256 from rfl]
    omega

theorem le64_toNat_eight (c0 c1 c2 c3 c4 c5 c6 c7 : Byte) :
    (le64 [c0, c1, c2, c3, c4, c5, c6, c7]).toNat =
      c0.toNat + c1.toNat * 2 ^ 8 + c2.toNat * 2 ^ 16 + c3.toNat * 2 ^ 24 + c4.toNat * 2 ^ 32 + c5.toNat * 2 ^ 40 +
        c6.toNat * 2 ^ 48 + c7.toNat * 2 ^ 56 := by
  simp only [le64_toNat, List.map_cons, List.map_nil, Nat.ofDigits_cons, Nat.ofDigits_nil]
  omega

/-- Settles O16: both assemblies read back byte by byte, and a value is determined by its bytes. -/
theorem littleEndianBytesInvert : Obligations.LittleEndianBytesInvert :=
  ⟨fun b0 b1 b2 b3 => ⟨rfl, bytesLe32_le32 b0 b1 b2 b3⟩,
   fun w => ⟨rfl, le32_bytes w⟩,
   fun c0 c1 c2 c3 c4 c5 c6 c7 => ⟨le64_toNat_eight c0 c1 c2 c3 c4 c5 c6 c7, bytesLe64_le64 _ rfl⟩,
   fun v => ⟨le64_bytesLe64 v, bytesLe64_getD v⟩⟩

end Sys2Proof.Machine
end

section
/-! PROOFS. What the commands do to the session (43_session_commands.md R160 to R165), one equation per command and status,
and what the other events leave alone (10_state.md R22, R25). -/

namespace Sys2Proof.Machine

theorem SessionStatus.active_or_finalized (f : SessionStatus) : f = .active ∨ f = .finalized := by
  cases f <;> simp

/-! The blocks of a command (R169) -/

@[simp] theorem blocksOf_init (s : State) : blocksOf .init s = [] := rfl

theorem blocksOf_finalized (i : Instr) (s : State) (hfin : s.fin = .finalized) : blocksOf i s = [] := by
  cases i <;> simp only [blocksOf, hfin]

theorem blocksOf_update_tooLong (len : BitVec 7) (s : State) (hlen : Config.maxChunk < len.toNat) :
    blocksOf (.update len) s = [] := by
  rcases SessionStatus.active_or_finalized s.fin with hfin | hfin
  · simp only [blocksOf, hfin, if_pos hlen]
  · exact blocksOf_finalized _ s hfin

theorem blocksOf_update_active (len : BitVec 7) (s : State) (hfin : s.fin = .active) (hlen : len.toNat ≤ Config.maxChunk) :
    blocksOf (.update len) s =
      fullBlocks ((s.buf.length + len.toNat) / 64) (s.buf ++ dataBytes s.dataIn len.toNat) := by
  simp only [blocksOf, hfin, if_neg (Nat.not_lt.2 hlen)]

theorem blocksOf_final_active (s : State) (hfin : s.fin = .active) :
    blocksOf .final s = padBlocks s.buf (cntAdd s.cnt s.buf.length) := by
  simp only [blocksOf, hfin]

/-- R142, R143: the padding of a buffer that R36 allows is whole blocks. -/
theorem padBlocks_size (buf : List Byte) (l : Count) (hbuf : buf.length ≤ 63) : ∀ b ∈ padBlocks buf l, b.length = 64 := by
  unfold padBlocks
  split_ifs
  · simp; omega
  · simp; omega

/-! The states that the two working commands lead to; `exec_update_active` and `exec_final_active` tie them to `exec` -/

/-- After an Active UPDATE: the full blocks of the pending and the new bytes are compressed and counted, the rest is kept. -/
def State.afterUpdate (s : State) (len : BitVec 7) : State :=
  (((s.withDs (compressAll s.ds (blocksOf (.update len) s))).withCnt
    (cntAdd s.cnt (64 * ((s.buf.length + len.toNat) / 64)))).withBuf
      ((s.buf ++ dataBytes s.dataIn len.toNat).drop (64 * ((s.buf.length + len.toNat) / 64)))).respond .ok

@[simp] theorem State.afterUpdate_ds (s : State) (len : BitVec 7) :
    (s.afterUpdate len).ds = compressAll s.ds (blocksOf (.update len) s) := rfl

@[simp] theorem State.afterUpdate_cnt (s : State) (len : BitVec 7) :
    (s.afterUpdate len).cnt = cntAdd s.cnt (64 * ((s.buf.length + len.toNat) / 64)) := rfl

@[simp] theorem State.afterUpdate_buf (s : State) (len : BitVec 7) :
    (s.afterUpdate len).buf =
      (s.buf ++ dataBytes s.dataIn len.toNat).drop (64 * ((s.buf.length + len.toNat) / 64)) := rfl

@[simp] theorem State.afterUpdate_fin (s : State) (len : BitVec 7) : (s.afterUpdate len).fin = s.fin := rfl

/-- After an Active FINAL: the pending bytes are counted, their padding is compressed, and the session is closed. -/
def State.afterFinal (s : State) : State :=
  ((s.withCnt (cntAdd s.cnt s.buf.length)).withDs (compressAll s.ds (blocksOf .final s))).closeSession

@[simp] theorem State.afterFinal_ds (s : State) : s.afterFinal.ds = compressAll s.ds (blocksOf .final s) := rfl

@[simp] theorem State.afterFinal_cnt (s : State) : s.afterFinal.cnt = cntAdd s.cnt s.buf.length := rfl

@[simp] theorem State.afterFinal_buf (s : State) : s.afterFinal.buf = [] := rfl

@[simp] theorem State.afterFinal_fin (s : State) : s.afterFinal.fin = .finalized := rfl

/-! The commands -/

theorem exec_init (s : State) : exec .init s = .next s.hardReset := rfl

/-- An UPDATE term above MAX_CHUNK, which no word decodes to, writes nothing (log entry 5). -/
theorem exec_update_tooLong (len : BitVec 7) (s : State) (hlen : Config.maxChunk < len.toNat) :
    exec (.update len) s = .next (s.respond .badCommand) := if_pos hlen

/-- R162: an Active UPDATE always completes. -/
theorem exec_update_active (len : BitVec 7) (s : State) (hfin : s.fin = .active) (hlen : len.toNat ≤ Config.maxChunk) :
    exec (.update len) s = .next (s.afterUpdate len) := by
  simp only [exec, execUpdate, if_neg (Nat.not_lt.2 hlen), hfin, updateActive_eq, finish_ok,
    State.afterUpdate, blocksOf_update_active len s hfin hlen, List.length_append, dataBytes_length]

/-- R164, R205: the first padding block of a buffer that R36 does not allow is no whole block. -/
theorem exec_final_oversized (s : State) (hfin : s.fin = .active) (hbuf : 63 < s.buf.length) :
    exec .final s = .fault .oversizedChunk := by
  have hfirst : (firstPadBlock s.buf).length ≠ 64 := by simp; omega
  have hpad (l : Count) : padBlocks s.buf l = [firstPadBlock s.buf, zeros 56 ++ bytesLe64 l] := if_neg (by omega)
  simp only [exec, execFinal, hfin, finalActive, State.countBytes_buf, hpad, compressBlocks_first_bad _ _ _ hfirst]
  rfl

/-- R164: FINAL of an Active session that meets R36. -/
theorem exec_final_active (s : State) (hfin : s.fin = .active) (hbuf : s.buf.length ≤ 63) :
    exec .final s = .next s.afterFinal := by
  simp only [exec, execFinal, hfin, finalActive_eq s (padBlocks_size _ _ hbuf), finish_ok,
    State.afterFinal, blocksOf_final_active s hfin]

/-- R163, R165: in a Finalized session every command but INIT only answers. -/
theorem exec_finalized (i : Instr) (s : State) (hfin : s.fin = .finalized) (hi : i ≠ .init) :
    ∃ r, exec i s = .next (s.respond r) := by
  cases i with
  | init => exact absurd rfl hi
  | update len =>
    by_cases hlen : Config.maxChunk < len.toNat
    · exact ⟨_, exec_update_tooLong len s hlen⟩
    · exact ⟨if len.toNat = 0 then .ok else .alreadyFinalized, by
        simp only [exec, execUpdate, if_neg hlen, hfin, updateFinalized]⟩
  | final => exact ⟨.ok, by simp only [exec, execFinal, hfin]⟩

/-- Everything a command can do: load the initial values, only answer, absorb a chunk, or close the session. -/
theorem exec_cases (i : Instr) (s t : State) (h : exec i s = .next t) :
    (i = .init ∧ t = s.hardReset) ∨
    (i ≠ .init ∧ s.fin = .finalized ∧ ∃ r, t = s.respond r) ∨
    (∃ len, i = .update len ∧ Config.maxChunk < len.toNat ∧ t = s.respond .badCommand) ∨
    (∃ len, i = .update len ∧ len.toNat ≤ Config.maxChunk ∧ s.fin = .active ∧ t = s.afterUpdate len) ∨
    (i = .final ∧ s.fin = .active ∧ s.buf.length ≤ 63 ∧ t = s.afterFinal) := by
  by_cases hi : i = .init
  · subst hi
    exact .inl ⟨rfl, by simpa [exec_init] using h.symm⟩
  rcases SessionStatus.active_or_finalized s.fin with hfin | hfin
  · cases i with
    | init => exact absurd rfl hi
    | update len =>
      by_cases hlen : Config.maxChunk < len.toNat
      · rw [exec_update_tooLong len s hlen] at h
        cases h
        exact .inr (.inr (.inl ⟨len, rfl, hlen, rfl⟩))
      · rw [exec_update_active len s hfin (Nat.not_lt.1 hlen)] at h
        cases h
        exact .inr (.inr (.inr (.inl ⟨len, rfl, Nat.not_lt.1 hlen, hfin, rfl⟩)))
    | final =>
      by_cases hbuf : s.buf.length ≤ 63
      · rw [exec_final_active s hfin hbuf] at h
        cases h
        exact .inr (.inr (.inr (.inr ⟨rfl, hfin, hbuf, rfl⟩)))
      · rw [exec_final_oversized s hfin (Nat.not_le.1 hbuf)] at h
        cases h
  · obtain ⟨r, hr⟩ := exec_finalized i s hfin hi
    rw [hr] at h
    cases h
    exact .inr (.inl ⟨hi, hfin, r, rfl⟩)

/-- R22, R169: a command's DS is the old one (IV for INIT) with the command's blocks compressed into it. -/
theorem exec_ds (i : Instr) (s t : State) (h : exec i s = .next t) :
    t.ds = compressAll (if i = .init then iv else s.ds) (blocksOf i s) := by
  rcases exec_cases i s t h with ⟨rfl, rfl⟩ | ⟨hi, hfin, r, rfl⟩ | ⟨len, rfl, hlen, rfl⟩ | ⟨len, rfl, hlen, hfin, rfl⟩ |
    ⟨rfl, hfin, hbuf, rfl⟩
  · rfl
  · simp [blocksOf_finalized i s hfin, hi]
  · simp [blocksOf_update_tooLong len s hlen]
  · simp
  · rfl

/-- R22: a command that completes compresses whole blocks only. -/
theorem exec_blocks_whole (i : Instr) (s t : State) (h : exec i s = .next t) : ∀ b ∈ blocksOf i s, b.length = 64 := by
  intro b hb
  rcases exec_cases i s t h with ⟨rfl, rfl⟩ | ⟨hi, hfin, r, rfl⟩ | ⟨len, rfl, hlen, rfl⟩ | ⟨len, rfl, hlen, hfin, rfl⟩ |
    ⟨rfl, hfin, hbuf, rfl⟩
  · simp at hb
  · simp [blocksOf_finalized i s hfin] at hb
  · simp [blocksOf_update_tooLong len s hlen] at hb
  · rw [blocksOf_update_active len s hfin hlen] at hb
    exact fullBlocks_size _ _ b (by simp; omega) hb
  · rw [blocksOf_final_active s hfin] at hb
    exact padBlocks_size _ _ hbuf b hb

/-- R25: FIN after a command. -/
theorem exec_fin (i : Instr) (s t : State) :
    exec i s = .next t → t.fin = (match i with | .init => .active | .update _ => s.fin | .final => .finalized) := by
  intro h
  rcases exec_cases i s t h with ⟨rfl, rfl⟩ | ⟨hi, hfin, r, rfl⟩ | ⟨len, rfl, hlen, rfl⟩ | ⟨len, rfl, hlen, hfin, rfl⟩ |
    ⟨rfl, hfin, hbuf, rfl⟩
  · rfl
  · cases i with
    | init => exact absurd rfl hi
    | update len => rfl
    | final => exact hfin
  · rfl
  · rfl
  · rfl

/-! The other events -/

/-- A step that takes neither a command nor a reset writes the host's side only. -/
theorem step_other_event (s t : State) (h : step s = .next t) (hcmd : ∀ w es, s.inputs ≠ .writeCmd w :: es)
    (hreset : ∀ es, s.inputs ≠ .reset :: es) (hduring : ∀ w es, s.inputs ≠ .resetDuring w :: es) :
    ∃ d es, t = (s.withData d).withInputs es := by
  cases hin : s.inputs with
  | nil =>
    rw [step_idle s hin] at h
    cases h
    exact ⟨s.dataIn, s.inputs, rfl⟩
  | cons e es =>
    rw [step_event s e es hin] at h
    cases e with
    | driveData d => cases h; exact ⟨d, es, rfl⟩
    | readPort p => cases h; exact ⟨s.dataIn, es, rfl⟩
    | writeCmdBusy w => cases h
    | writeCmd w => exact absurd hin (hcmd w es)
    | reset => exact absurd hin (hreset es)
    | resetDuring w => exact absurd hin (hduring w es)

/-- The decoder accepts no word that R66 rules out. -/
theorem legal_of_decode (w : CmdWord) (i : Instr) (h : decode w = .ok i) : Legal w := by
  cases i with
  | init =>
    obtain ⟨hrsvd, hopc, hlen⟩ := (decode_init_iff w).1 h
    exact ⟨hrsvd, .inl ⟨hopc, hlen⟩⟩
  | update len =>
    obtain ⟨hrsvd, hopc, rfl, hmax⟩ := (decode_update_iff w len).1 h
    exact ⟨hrsvd, .inr (.inl ⟨hopc, hmax⟩)⟩
  | final =>
    obtain ⟨hrsvd, hopc, hlen⟩ := (decode_final_iff w).1 h
    exact ⟨hrsvd, .inr (.inr ⟨hopc, hlen⟩)⟩

end Sys2Proof.Machine
end

section
/-! PROOFS. What the ports STATUS_OUT, CNT_OUT and DIGEST_OUT show (10_state.md R30 to R32). -/

namespace Sys2Proof.Machine

/-! STATUS_OUT -/

theorem statusOut_eq (s : State) (hbuf : s.buf.length ≤ 63) :
    s.statusOut = (s.fin.bit.setWidth 32 ||| (BitVec.ofNat 32 s.buf.length <<< 8)) := by
  have hfield : s.bufLenField.setWidth 32 = BitVec.ofNat 32 s.buf.length := by
    apply BitVec.eq_of_toNat_eq
    simp [State.bufLenField]; omega
  rw [State.statusOut, hfield]

theorem statusOut_fin (s : State) : s.statusOut.extractLsb 0 0 = s.fin.bit := by
  ext i hi
  grind [State.statusOut]

theorem statusOut_reserved_low (s : State) : s.statusOut.extractLsb 7 1 = 0 := by
  ext i hi
  grind [State.statusOut]

theorem statusOut_bufLen (s : State) : s.statusOut.extractLsb 13 8 = s.bufLenField := by
  ext i hi
  grind [State.statusOut]

theorem statusOut_reserved_high (s : State) : s.statusOut.extractLsb 31 14 = 0 := by
  ext i hi
  have hpast : s.bufLenField.getLsbD (i + 6) = false := BitVec.getLsbD_of_ge _ _ (by omega)
  grind [State.statusOut]

/-! DIGEST_OUT -/

/-- R146: byte k of word j, in the order A, B, C, D. -/
theorem serialize_getD (ds : DigestState) (j k : Nat) (hj : j < 4) (hk : k < 4) :
    (serialize ds).getD (4 * j + k) 0 = ([ds.a, ds.b, ds.c, ds.d].getD j 0).extractLsb' (8 * k) 8 := by
  interval_cases j <;> interval_cases k <;> rfl

theorem digestOut_word (s : State) (j : Nat) (hj : j < 4) :
    s.digestOut.extractLsb' (32 * j) 32 = [s.ds.a, s.ds.b, s.ds.c, s.ds.d].getD j 0 := by
  ext i hi
  interval_cases j <;> grind [State.digestOut]

theorem digestOut_byte (s : State) (k : Nat) (hk : k < 16) :
    s.digestOut.extractLsb' (8 * k) 8 = (serialize s.ds).getD k 0 := by
  rw [← Nat.div_add_mod k 4, serialize_getD _ _ _ (by omega) (by omega), ← digestOut_word s _ (by omega)]
  ext i hi
  grind

/-! R36, R168: what a session that has accepted a message holds -/

theorem represents_active_iff (s : State) (m : List Byte) (hfin : s.fin = .active) :
    s.Represents m ↔ s.ds = chainState m ∧ s.cnt = BitVec.ofNat 64 (512 * numFull m) ∧ s.buf = leftover m := by
  rw [State.Represents, hfin]

theorem represents_finalized_iff (s : State) (m : List Byte) (hfin : s.fin = .finalized) :
    s.Represents m ↔ s.ds = digestState m ∧ s.cnt = bitLength m ∧ s.buf = [] := by
  rw [State.Represents, hfin]

/-- Settles O24: STATUS_OUT field by field, CNT_OUT byte by byte, and a step without a command or reset writes neither. -/
theorem statusAndCounterPorts : Obligations.StatusAndCounterPorts := by
  refine ⟨fun s hbuf => ⟨?_, statusOut_reserved_low s, ?_, statusOut_reserved_high s, statusOut_eq s hbuf, rfl, fun k hk => ?_⟩,
    fun s t h hcmd hreset hduring => ?_⟩
  · rw [statusOut_fin]
    cases s.fin <;> rfl
  · rw [statusOut_bufLen, State.bufLenField, BitVec.toNat_ofNat]
    omega
  · exact (bytesLe64_getD s.cnt k hk).symm
  · obtain ⟨d, es, rfl⟩ := step_other_event s t h hcmd hreset hduring
    exact ⟨rfl, rfl⟩

/-- Settles O25: every byte of DIGEST_OUT is a byte of the serialized DS, and the session's message fixes DS. -/
theorem digestPortOfASession : Obligations.DigestPortOfASession := by
  refine ⟨fun s => ⟨rfl, digestOut_byte s⟩, fun s m hm => ⟨fun hfin k hk => ?_, fun hfin k hk => ?_⟩,
    fun s t h hcmd hreset hduring => ?_⟩
  · obtain ⟨hds, -, -⟩ := (represents_finalized_iff s m hfin).1 hm
    rw [digestOut_byte s k hk, hds, md4]
  · obtain ⟨hds, -, -⟩ := (represents_active_iff s m hfin).1 hm
    rw [digestOut_byte s k hk, hds]
  · obtain ⟨d, es, rfl⟩ := step_other_event s t h hcmd hreset hduring
    rfl

end Sys2Proof.Machine
end

section
/-! PROOFS. What may write DS and FIN (10_state.md R22, R25). -/

namespace Sys2Proof.Machine

/-- Settles O36: by the event that stands first. -/
theorem digestStateChangesOnlyByCompression : Obligations.DigestStateChangesOnlyByCompression := by
  intro s t h
  refine ⟨fun w es i hin hw => ?_, fun w es hin => ?_, fun es hin => ?_, fun hcmd hreset hduring => ?_⟩
  · rw [step_event s _ es hin, deliver, execute_decoded w i _ hw] at h
    exact ⟨exec_ds i (s.withInputs es) t h, exec_blocks_whole i (s.withInputs es) t h⟩
  · rw [step_event s _ es hin] at h
    cases h
    rfl
  · rw [step_event s _ es hin] at h
    cases h
    rfl
  · by_cases hw : ∃ w es, s.inputs = .writeCmd w :: es
    · obtain ⟨w, es, hin⟩ := hw
      rw [step_event s _ es hin] at h
      rcases execute_cases w (s.withInputs es) with ⟨i, hi, -⟩ | ⟨e, -, hexec⟩
      · exact absurd hi (hcmd w es i hin)
      · cases hexec.symm.trans h
        rfl
    · obtain ⟨d, es, rfl⟩ := step_other_event s t h (fun w es hin => hw ⟨w, es, hin⟩) hreset hduring
      rfl

/-- Settles O37: FIN after each command, and the commands that only answer. -/
theorem finChangesOnlyAsTheRuleSays : Obligations.FinChangesOnlyAsTheRuleSays := by
  refine ⟨rfl, rfl, fun s t i h => ⟨exec_fin i s t h, fun hfin hi => ?_⟩, fun s t w hw h => ?_, fun s t es hin h => ?_⟩
  · obtain ⟨r, hr⟩ := exec_finalized i s hfin hi
    cases hr.symm.trans h
    exact ⟨rfl, rfl, rfl, rfl⟩
  · rcases execute_cases w s with ⟨i, hi, -⟩ | ⟨e, -, hexec⟩
    · exact absurd (legal_of_decode w i hi) hw
    · cases hexec.symm.trans h
      exact ⟨rfl, rfl, rfl, rfl⟩
  · rw [step_event s _ es hin] at h
    cases h
    rfl

end Sys2Proof.Machine
end

section
/-! PROOFS. The byte order of the block's words and of the digest (20_memory.md R42, R44; 40_block_compressor.md R101;
42_padding_finalizer.md R146): each rests on the byte-by-byte reading of a word. -/

namespace Sys2Proof.Machine

/-! Message words -/

@[simp] theorem messageWords_length (blk : List Byte) : (messageWords blk).length = 16 := by simp [messageWords]

theorem messageWords_getD (blk : List Byte) (j : Nat) (hj : j < 16) :
    (messageWords blk).getD j 0 = messageWord blk j := by
  simp [messageWords, hj]

theorem messageWord_byte (blk : List Byte) (j k : Nat) (hk : k < 4) :
    (messageWord blk j).extractLsb' (8 * k) 8 = blk.getD (4 * j + k) 0 := by
  rw [messageWord, byte_le32 _ _ _ _ k hk]
  interval_cases k <;> rfl

theorem bytesLe32_messageWord (blk : List Byte) (j : Nat) :
    bytesLe32 (messageWord blk j) = (List.range 4).map fun k => blk.getD (4 * j + k) 0 := bytesLe32_le32 ..

/-- Reading `n` groups of `w` elements is reading `w * n` elements in order. -/
theorem flatMap_map_range {α : Type} (f : Nat → α) (w n : Nat) :
    ((List.range n).flatMap fun j => (List.range w).map fun k => f (w * j + k)) = (List.range (w * n)).map f := by
  induction n with
  | zero => rfl
  | succ n ih => simp [List.range_succ, Nat.mul_succ, List.range_add, ih, Function.comp_def]

theorem messageWords_bytes (blk : List Byte) (hblk : blk.length = 64) : (messageWords blk).flatMap bytesLe32 = blk := by
  simp only [messageWords, List.flatMap_map, bytesLe32_messageWord]
  rw [flatMap_map_range (blk.getD · 0) 4 16, map_getD_range hblk]

/-- Settles O15: each word is the assembly of its four bytes, and disassembling the words in order gives the block back. -/
theorem messageWordsAreLittleEndian : Obligations.MessageWordsAreLittleEndian := by
  refine ⟨fun blk hblk => ⟨messageWords_length blk, messageWords_getD blk, fun j k hj hk => ?_, messageWords_bytes blk hblk⟩,
    rfl⟩
  rw [messageWords_getD blk j hj, messageWord_byte blk j k hk]

/-! Digest -/

@[simp] theorem serialize_length (ds : DigestState) : (serialize ds).length = 16 := rfl

/-- Settles O23: the bytes are those that DIGEST_OUT's proof reads, and R146's example runs. -/
theorem digestSerialization : Obligations.DigestSerialization :=
  ⟨fun ds => ⟨serialize_length ds, serialize_getD ds⟩, by decide⟩

end Sys2Proof.Machine
end

section
/-! PROOFS. The counter's wrap modulo 2^64 (41_bit_counter.md R132): the commands' next states do not ask whether it wraps. -/

namespace Sys2Proof.Machine

theorem cntAdd_toNat (c : Count) (k : Nat) : (cntAdd c k).toNat = (c.toNat + 8 * k) % 2 ^ 64 := by
  rw [cntAdd, BitVec.toNat_add, BitVec.toNat_ofNat, Nat.add_mod_mod]

theorem fullBlocks_one (m : List Byte) : fullBlocks 1 m = [m.take 64] := rfl

/-- R162 in the states of R36: an UPDATE that completes a block turns the loop once. -/
theorem State.afterUpdate_of_block_completed (s : State) (len : BitVec 7) (hfin : s.fin = .active)
    (hlen : len.toNat ≤ Config.maxChunk) (hone : (s.buf.length + len.toNat) / 64 = 1) :
    s.afterUpdate len =
      { s with
        ds := compress s.ds ((s.buf ++ dataBytes s.dataIn len.toNat).take 64)
        cnt := cntAdd s.cnt 64
        buf := (s.buf ++ dataBytes s.dataIn len.toNat).drop 64
        resp := .ok } := by
  rw [State.afterUpdate, blocksOf_update_active len s hfin hlen, hone, fullBlocks_one, compressAll_cons, compressAll_nil,
    Nat.mul_one, State.withDs, State.withCnt, State.withBuf, State.respond]

/-- R142, R143: the length field ends the last padding block, at offset 56. -/
theorem padBlocks_last_holds_length (buf : List Byte) (l : Count) :
    ∃ blk, (padBlocks buf l).getLast? = some blk ∧ blk.drop 56 = bytesLe64 l := by
  by_cases h55 : buf.length ≤ 55
  · have h56 : ((firstPadBlock buf).take 56).length = 56 := by simp; omega
    exact ⟨(firstPadBlock buf).take 56 ++ bytesLe64 l, by rw [padBlocks, if_pos h55]; rfl, List.drop_left' h56⟩
  · exact ⟨zeros 56 ++ bytesLe64 l, by rw [padBlocks, if_neg h55]; rfl, List.drop_left' (zeros_length 56)⟩

/-- Settles O19: both next states hold `cntAdd` of the old counter, whose value is the wrapped sum, and FINAL's padding is
that of the new counter. -/
theorem counterWrapsSilently : Obligations.CounterWrapsSilently := by
  refine ⟨fun s len hfin hbuf hlen hfull => ?_, fun s hfin hbuf => ?_, by decide⟩
  · refine ⟨s.afterUpdate len, exec_update_active len s hfin hlen, ?_⟩
    rw [State.afterUpdate_of_block_completed s len hfin hlen (by omega), ← hfin]
    exact ⟨cntAdd_toNat s.cnt 64, rfl⟩
  · refine ⟨s.afterFinal, exec_final_active s hfin hbuf, cntAdd_toNat s.cnt s.buf.length, ?_,
      padBlocks_last_holds_length s.buf s.afterFinal.cnt⟩
    rw [State.afterFinal, blocksOf_final_active s hfin]
    rfl

end Sys2Proof.Machine
end

section
/-! PROOFS. The padding blocks byte by byte (42_padding_finalizer.md R141, R143). -/

namespace Sys2Proof.Machine

theorem zeros_getD (n j : Nat) : (zeros n).getD j 0 = 0 := List.getElem?_getD_replicate_default_eq 0 n j

/-! The first block: message, marker, zeros -/

theorem firstPadBlock_size (buf : List Byte) (hbuf : buf.length ≤ 63) : (firstPadBlock buf).length = 64 := by
  rw [firstPadBlock_length]; omega

theorem firstPadBlock_getD_message (buf : List Byte) (j : Nat) (hj : j < buf.length) :
    (firstPadBlock buf).getD j 0 = buf.getD j 0 := List.getD_append _ _ _ _ hj

theorem firstPadBlock_getD_marker (buf : List Byte) : (firstPadBlock buf).getD buf.length 0 = 0x80 := by
  rw [firstPadBlock, List.getD_append_right _ _ _ _ le_rfl, Nat.sub_self, List.getD_cons_zero, marker]

theorem firstPadBlock_getD_zero (buf : List Byte) (j : Nat) (hj : buf.length < j) : (firstPadBlock buf).getD j 0 = 0 := by
  obtain ⟨i, rfl⟩ : ∃ i, j = buf.length + (i + 1) := ⟨j - buf.length - 1, by omega⟩
  rw [firstPadBlock, List.getD_append_right _ _ _ _ (Nat.le_add_right ..), Nat.add_sub_cancel_left, List.getD_cons_succ,
    zeros_getD]

/-- Settles O20: the block is the leftover bytes, the marker and zeros, read at an index in each part. -/
theorem firstPaddingBlockLayout : Obligations.FirstPaddingBlockLayout := fun buf hbuf =>
  ⟨firstPadBlock_size buf hbuf, firstPadBlock_getD_message buf, firstPadBlock_getD_marker buf,
    fun j hj _ => firstPadBlock_getD_zero buf j hj⟩

/-! The second block: zeros, length field -/

theorem padBlocks_two (buf : List Byte) (l : Count) (hbuf : 56 ≤ buf.length) :
    padBlocks buf l = [firstPadBlock buf, zeros 56 ++ bytesLe64 l] := if_neg (by omega)

theorem zeros_append_getD_zero (n j : Nat) (bs : List Byte) (hj : j < n) : (zeros n ++ bs).getD j 0 = 0 := by
  rw [List.getD_append _ _ _ _ (by rwa [zeros_length]), zeros_getD]

theorem zeros_append_getD_add (n k : Nat) (bs : List Byte) : (zeros n ++ bs).getD (n + k) 0 = bs.getD k 0 := by
  rw [List.getD_append_right _ _ _ _ (by rw [zeros_length]; exact Nat.le_add_right ..), zeros_length,
    Nat.add_sub_cancel_left]

/-- Settles O22: the first block is that of O20, and the second is zeros up to the length field at offset 56. -/
theorem twoBlockPaddingLayout : Obligations.TwoBlockPaddingLayout := by
  intro buf l hlow hbuf
  obtain ⟨hsize, hmessage, hmarker, hzero⟩ := firstPaddingBlockLayout buf hbuf
  refine ⟨firstPadBlock buf, zeros 56 ++ bytesLe64 l, padBlocks_two buf l hlow, hsize, rfl, hmessage, hmarker, hzero,
    fun j hj => zeros_append_getD_zero 56 j _ (by omega), fun k hk => ?_⟩
  rw [zeros_append_getD_add, bytesLe64_getD l k hk, countByte]

end Sys2Proof.Machine
end

section
/-! PROOFS. The commands' whole next states (43_session_commands.md R161, R163, R164): INIT from any state, UPDATE after
FINAL, and FINAL of an Active session, whose digest is that of the message it represents. -/

namespace Sys2Proof.Machine

/-! INIT -/

/-- R32: the bytes of DIGEST_OUT are the serialized DS. -/
theorem digestOut_bytes (s : State) :
    (List.range 16).map (fun k => s.digestOut.extractLsb' (8 * k) 8) = serialize s.ds := by
  rw [List.map_congr_left fun k hk => digestOut_byte s k (List.mem_range.1 hk), map_getD_range (serialize_length s.ds)]

/-- R37: the digest bytes of the initial constants. -/
theorem serialize_iv :
    serialize iv =
      [0x01, 0x23, 0x45, 0x67, 0x89, 0xab, 0xcd, 0xef, 0xfe, 0xdc, 0xba, 0x98, 0x76, 0x54, 0x32, 0x10] := by
  decide

theorem statusOut_hardReset (s : State) : s.hardReset.statusOut = 0 := by
  have hreset : s.hardReset.statusOut = State.reset.statusOut := rfl
  rw [hreset]
  decide

/-- Settles O26: INIT is `State.hardReset`, whose ports show constants only, and the reset state is its fixed point. -/
theorem initStartsANewSession : Obligations.InitStartsANewSession := by
  refine ⟨by decide, exec_init, fun s t h => ?_, exec_init State.reset⟩
  rw [exec_init] at h
  cases h
  exact ⟨statusOut_hardReset s, rfl, rfl, (digestOut_bytes s.hardReset).trans serialize_iv⟩

/-! UPDATE after FINAL -/

theorem exec_update_finalized (len : BitVec 7) (s : State) (hfin : s.fin = .finalized) (hlen : len.toNat ≤ Config.maxChunk) :
    exec (.update len) s = .next (s.respond (if len.toNat = 0 then .ok else .alreadyFinalized)) := by
  simp only [exec, execUpdate, if_neg (Nat.not_lt.2 hlen), hfin, updateFinalized]

/-- Settles O28: the command only answers, and its byte count is 0 just when its LEN field is. -/
theorem finalizedUpdateWritesNoState : Obligations.FinalizedUpdateWritesNoState := by
  intro s len hfin hlen
  have hzero : len.toNat = 0 ↔ len = 0 := BitVec.toNat_inj (y := 0)
  rw [exec_update_finalized len s hfin hlen, State.respond]
  simp only [hzero]

/-! FINAL of an Active session -/

theorem padBlocks_one (buf : List Byte) (l : Count) (hbuf : buf.length ≤ 55) :
    padBlocks buf l = [(firstPadBlock buf).take 56 ++ bytesLe64 l] := if_pos hbuf

/-- R134: the full blocks counted so far and the leftover bytes make up the message's length. -/
theorem cntAdd_leftover (m : List Byte) :
    cntAdd (BitVec.ofNat 64 (512 * numFull m)) (leftover m).length = bitLength m := by
  rw [cntAdd, ← BitVec.ofNat_add, leftover_length, numFull, bitLength]
  congr 1
  omega

/-- R167: FINAL pads and compresses just what is missing of the digest of the message accepted so far. -/
theorem State.Represents.afterFinal {s : State} {m : List Byte} (hm : s.Represents m) (hfin : s.fin = .active) :
    s.afterFinal.Represents m := by
  obtain ⟨hds, hcnt, hbuf⟩ := (represents_active_iff s m hfin).1 hm
  have hcount : cntAdd s.cnt s.buf.length = bitLength m := by rw [hcnt, hbuf, cntAdd_leftover]
  refine (represents_finalized_iff _ m rfl).2 ⟨?_, hcount, rfl⟩
  rw [State.afterFinal_ds, blocksOf_final_active s hfin, hcount, hds, hbuf, digestState]

/-- R164, R167: FINAL of an Active session leaves the length and the digest of its message. -/
theorem exec_final_represents (s : State) (m : List Byte) (hfin : s.fin = .active) (hm : s.Represents m) :
    ∃ t, exec .final s = .next t ∧ t.cnt = bitLength m ∧ serialize t.ds = md4 m := by
  obtain ⟨-, -, hbuf⟩ := (represents_active_iff s m hfin).1 hm
  have hshort : s.buf.length ≤ 63 := by rw [hbuf, leftover_length]; omega
  obtain ⟨hds, hcnt, -⟩ := (represents_finalized_iff _ m rfl).1 (hm.afterFinal hfin)
  exact ⟨s.afterFinal, exec_final_active s hfin hshort, hcnt, congrArg serialize hds⟩

/-- R168: before its first full block a session holds its message in BUF. -/
theorem represents_of_short (s : State) (m : List Byte) (hshort : m.length < 64) (hfin : s.fin = .active) (hds : s.ds = iv)
    (hcnt : s.cnt = 0) (hbuf : s.buf = m) : s.Represents m := by
  have hnone : numFull m = 0 := Nat.div_eq_of_lt hshort
  rw [represents_active_iff s m hfin, chainState, leftover, hnone]
  exact ⟨hds, hcnt, hbuf⟩

theorem md4_empty :
    md4 [] = [0x31, 0xd6, 0xcf, 0xe0, 0xd1, 0x6a, 0xe9, 0x31, 0xb7, 0x3c, 0x59, 0xd7, 0xe0, 0xc0, 0x89, 0xc0] := by
  decide +kernel

theorem md4_abc :
    md4 [0x61, 0x62, 0x63] =
      [0xa4, 0x48, 0x01, 0x7a, 0xaf, 0x21, 0xd8, 0x52, 0x5f, 0xc1, 0x0a, 0xe8, 0x7a, 0xa6, 0x72, 0x9d] := by
  decide +kernel

/-- Settles O30: the next state is `State.afterFinal`, whose DS is compressed over the padding of the new count, and the
two messages' sessions end with their MD4. -/
theorem activeFinalPadsAndCloses : Obligations.ActiveFinalPadsAndCloses := by
  refine ⟨by decide, fun s hfin hbuf => ?_, fun s hfin hds hcnt hbuf => ?_, fun s hfin hds hcnt hbuf => ?_⟩
  · have hafter : s.afterFinal.ds = compressAll s.ds (padBlocks s.buf (cntAdd s.cnt s.buf.length)) := by
      rw [State.afterFinal_ds, blocksOf_final_active s hfin]
    refine ⟨s.afterFinal, exec_final_active s hfin hbuf, rfl, fun h55 => ?_, fun h55 => ?_⟩
    · have hpad := padBlocks_one s.buf (cntAdd s.cnt s.buf.length) h55
      exact ⟨_, hpad, by rw [hafter, hpad, compressAll_cons, compressAll_nil]⟩
    · have hpad := padBlocks_two s.buf (cntAdd s.cnt s.buf.length) h55
      exact ⟨_, _, hpad, by rw [hafter, hpad, compressAll_cons, compressAll_cons, compressAll_nil]⟩
  · obtain ⟨t, ht, -, hdigest⟩ :=
      exec_final_represents s [] hfin (represents_of_short s [] (by decide) hfin hds hcnt hbuf)
    exact ⟨t, ht, hdigest.trans md4_empty⟩
  · obtain ⟨t, ht, hlength, hdigest⟩ :=
      exec_final_represents s [0x61, 0x62, 0x63] hfin (represents_of_short s _ (by decide) hfin hds hcnt hbuf)
    exact ⟨t, ht, hlength, hdigest.trans md4_abc⟩

end Sys2Proof.Machine
end

section
/-! PROOFS. What a command word is answered, and what the events that are no command leave alone (60_exceptions.md R200 to
R204, R216): a word answers BAD_COMMAND, ALREADY_FINALIZED or OK by its legality and by the status. -/

namespace Sys2Proof.Machine

/-! Legality -/

/-- The decoder accepts every word that R66 allows. -/
theorem exists_decode_of_legal (w : CmdWord) (h : Legal w) : ∃ i, decode w = .ok i := by
  obtain ⟨hrsvd, ⟨hopc, hlen⟩ | ⟨hopc, hmax⟩ | ⟨hopc, hlen⟩⟩ := h
  · exact ⟨.init, (decode_init_iff w).2 ⟨hrsvd, hopc, hlen⟩⟩
  · exact ⟨.update (lenField w), (decode_update_iff w _).2 ⟨hrsvd, hopc, rfl, hmax⟩⟩
  · exact ⟨.final, (decode_final_iff w).2 ⟨hrsvd, hopc, hlen⟩⟩

theorem decode_wellFormed (w : CmdWord) (i : Instr) (h : decode w = .ok i) : i.WellFormed := by
  cases i with
  | init => rfl
  | update len =>
    obtain ⟨-, -, -, hmax⟩ := (decode_update_iff w len).1 h
    exact Nat.ble_eq_true_of_le hmax
  | final => rfl

/-- R65: the RSVD field is the bits 11 to 31. -/
theorem rsvd_ne_zero_iff (w : CmdWord) :
    w.extractLsb 31 11 ≠ 0#21 ↔ ∃ j, 11 ≤ j ∧ j ≤ 31 ∧ w.getLsbD j = true := by
  constructor
  · intro hne
    obtain ⟨k, hk⟩ := not_forall.1 (mt BitVec.eq_of_getLsbD_eq hne)
    obtain ⟨hk21, hbit⟩ := Classical.not_imp.1 hk
    exact ⟨11 + k, by omega, by omega, by simpa [BitVec.getLsbD_extractLsb, hk21] using hbit⟩
  · rintro ⟨j, hlow, hhigh, hj⟩ hzero
    have hbit : (w.extractLsb 31 11).getLsbD (j - 11) = false := by rw [hzero, BitVec.getLsbD_zero]
    have hpos : 11 + (j - 11) = j := by omega
    have hwidth : j - 11 < 21 := by omega
    simp [hpos, hj, hwidth] at hbit

/-- R62, R201: the reserved OPCs are those of no command. -/
theorem opc_reserved_iff (o : BitVec 4) : (o = 0x0#4 ∨ 4 ≤ o.toNat) ↔ o ≠ 0x1#4 ∧ o ≠ 0x2#4 ∧ o ≠ 0x3#4 := by
  revert o
  decide

/-- R201: the four causes make up the words that are not legal. -/
theorem not_legal_iff_four_causes (w : CmdWord) :
    ¬ Legal w ↔
      (w.extractLsb 3 0 = 0x0#4 ∨ 4 ≤ (w.extractLsb 3 0).toNat) ∨
      (∃ j, 11 ≤ j ∧ j ≤ 31 ∧ w.getLsbD j = true) ∨
      (w.extractLsb 3 0 = 0x2#4 ∧ 64 < (w.extractLsb 10 4).toNat) ∨
      ((w.extractLsb 3 0 = 0x1#4 ∨ w.extractLsb 3 0 = 0x3#4) ∧ w.extractLsb 10 4 ≠ 0#7) := by
  rw [← rsvd_ne_zero_iff, opc_reserved_iff, Legal]
  by_cases hinit : w.extractLsb 3 0 = 0x1#4
  · simp [hinit, imp_iff_not_or]
  by_cases hupdate : w.extractLsb 3 0 = 0x2#4
  · simp [hupdate, imp_iff_not_or]
  by_cases hfinal : w.extractLsb 3 0 = 0x3#4
  · simp [hfinal, imp_iff_not_or]
  · simp [hinit, hupdate, hfinal]

/-! The answers -/

@[simp] theorem State.hardReset_resp (s : State) : s.hardReset.resp = .ok := rfl

@[simp] theorem State.afterUpdate_resp (s : State) (len : BitVec 7) : (s.afterUpdate len).resp = .ok := rfl

@[simp] theorem State.afterFinal_resp (s : State) : s.afterFinal.resp = .ok := rfl

/-- R165: FINAL of a Finalized session only answers. -/
theorem exec_final_finalized (s : State) (hfin : s.fin = .finalized) : exec .final s = .next (s.respond .ok) := by
  simp only [exec, execFinal, hfin]

/-- R202, R204: an illegal word only answers, in every state. -/
theorem execute_illegal (w : CmdWord) (s : State) (h : ¬ Legal w) : execute w s = .next (s.respond .badCommand) := by
  rcases execute_cases w s with ⟨i, hi, -⟩ | ⟨e, -, hexec⟩
  · exact absurd (legal_of_decode w i hi) h
  · exact hexec

/-- R203: the cause of ALREADY_FINALIZED. -/
def AddsToFinalized (i : Instr) (s : State) : Prop :=
  s.fin = .finalized ∧ ∃ len : BitVec 7, i = .update len ∧ 1 ≤ len.toNat

/-- R203: where its cause holds, a command of the set only answers ALREADY_FINALIZED. -/
theorem exec_alreadyFinalized (i : Instr) (s : State) (hi : i.WellFormed) (h : AddsToFinalized i s) :
    exec i s = .next (s.respond .alreadyFinalized) := by
  obtain ⟨hfin, len, rfl, hlen⟩ := h
  rw [exec_update_finalized len s hfin (Nat.le_of_ble_eq_true hi), if_neg (by omega)]

/-- R200: elsewhere in the states of R36 a command of the set completes and answers OK. -/
theorem exec_answers_ok (i : Instr) (s : State) (hi : i.WellFormed) (hbuf : s.buf.length ≤ 63)
    (h : ¬ AddsToFinalized i s) : ∃ t, exec i s = .next t ∧ t.resp = .ok := by
  rcases SessionStatus.active_or_finalized s.fin with hfin | hfin
  · cases i with
    | init => exact ⟨_, exec_init s, rfl⟩
    | update len => exact ⟨_, exec_update_active len s hfin (Nat.le_of_ble_eq_true hi), rfl⟩
    | final => exact ⟨_, exec_final_active s hfin hbuf, rfl⟩
  · cases i with
    | init => exact ⟨_, exec_init s, rfl⟩
    | update len =>
      have hzero : len.toNat = 0 := by
        by_contra hlen
        exact h ⟨hfin, len, rfl, by omega⟩
      exact ⟨_, exec_update_finalized len s hfin (Nat.le_of_ble_eq_true hi), if_pos hzero⟩
    | final => exact ⟨_, exec_final_finalized s hfin, rfl⟩

/-! The statements -/

/-- Settles O7: the step hands the word to `execute`, which only answers. -/
theorem rejectedCommandWritesNoState : Obligations.RejectedCommandWritesNoState := by
  intro s w es hw hin
  rw [step_event s _ es hin]
  exact execute_illegal w (s.withInputs es) hw

/-- Settles O8: by the three answers: the word is illegal, or its command adds to a Finalized session, or neither. -/
theorem everyCommandAnswersItsTableResponse : Obligations.EveryCommandAnswersItsTableResponse := by
  refine ⟨rfl, rfl, rfl, fun r => by cases r <;> decide, fun s w es hinv hin => ?_⟩
  obtain ⟨hbuf, -, -⟩ := hinv
  by_cases hw : Legal w
  · obtain ⟨i, hi⟩ := exists_decode_of_legal w hw
    have hwf := decode_wellFormed w i hi
    have hstep : step s = exec i (s.withInputs es) := by
      rw [step_event s _ es hin, deliver, execute_decoded w i _ hi]
    have hcause : AddsToFinalized i (s.withInputs es) ↔
        s.fin = .finalized ∧ ∃ len : BitVec 7, decode w = .ok (.update len) ∧ 1 ≤ len.toNat := by
      simp [AddsToFinalized, hi]
    rw [hstep, ← hcause]
    by_cases hadds : AddsToFinalized i (s.withInputs es)
    · exact ⟨_, exec_alreadyFinalized i _ hwf hadds, iff_of_false (by simp) (not_not.2 hw), iff_of_true rfl hadds,
        fun _ => rfl⟩
    · obtain ⟨t, ht, hresp⟩ := exec_answers_ok i (s.withInputs es) hwf hbuf hadds
      exact ⟨t, ht, iff_of_false (by simp [hresp]) (not_not.2 hw), iff_of_false (by simp [hresp]) hadds,
        fun hne => absurd hresp hne⟩
  · have hnone (len : BitVec 7) : decode w ≠ .ok (.update len) := fun hd => hw (legal_of_decode w _ hd)
    exact ⟨_, rejectedCommandWritesNoState s w es hw hin, iff_of_true rfl hw, by simp [hnone], fun _ => rfl⟩

/-- Settles O6: BAD_COMMAND is the answer to an illegal word, and such a word is one of the four causes. -/
theorem badCommandExactlyOnTheFourCauses : Obligations.BadCommandExactlyOnTheFourCauses := by
  intro s w es hinv hin
  obtain ⟨-, -, -, -, hanswers⟩ := everyCommandAnswersItsTableResponse
  obtain ⟨t, ht, hbad, -, -⟩ := hanswers s w es hinv hin
  exact ⟨t, ht, hbad.trans (not_legal_iff_four_causes w)⟩

/-- Settles O42: by the event that stands first, if there is one. -/
theorem onlyCommandsAndResetsChangeTheSession : Obligations.OnlyCommandsAndResetsChangeTheSession := by
  refine ⟨step_idle, fun s p es hin => step_event s _ es hin, fun s d es hin => step_event s _ es hin,
    fun s t h hcmd hreset hduring => ?_⟩
  obtain ⟨d, es, rfl⟩ := step_other_event s t h hcmd hreset hduring
  exact ⟨rfl, rfl, rfl, rfl, rfl⟩

end Sys2Proof.Machine
end

section
/-! PROOFS. Reset and hazards (70_reset_and_hazards.md R230, R231, R234): what a command leaves of the host's side, when DATA is
sampled, and the state that a reset leaves. -/

namespace Sys2Proof.Machine

/-! The host's side -/

@[simp] theorem State.afterUpdate_dataIn (s : State) (len : BitVec 7) : (s.afterUpdate len).dataIn = s.dataIn := rfl

@[simp] theorem State.afterUpdate_inputs (s : State) (len : BitVec 7) : (s.afterUpdate len).inputs = s.inputs := rfl

@[simp] theorem State.afterFinal_dataIn (s : State) : s.afterFinal.dataIn = s.dataIn := rfl

@[simp] theorem State.afterFinal_inputs (s : State) : s.afterFinal.inputs = s.inputs := rfl

@[simp] theorem State.hardReset_dataIn (s : State) : s.hardReset.dataIn = s.dataIn := rfl

@[simp] theorem State.hardReset_inputs (s : State) : s.hardReset.inputs = s.inputs := rfl

/-- R29, R50: a command writes neither the DATA port nor the events to come. -/
theorem exec_host_side (i : Instr) (s t : State) (h : exec i s = .next t) : t.dataIn = s.dataIn ∧ t.inputs = s.inputs := by
  rcases exec_cases i s t h with ⟨-, rfl⟩ | ⟨-, -, r, rfl⟩ | ⟨len, -, -, rfl⟩ | ⟨len, -, -, -, rfl⟩ | ⟨-, -, -, rfl⟩
  · simp
  · simp
  · simp
  · simp
  · simp

/-- R29, R50, R202: nor does a command word, legal or not. -/
theorem execute_host_side (w : CmdWord) (s t : State) (h : execute w s = .next t) :
    t.dataIn = s.dataIn ∧ t.inputs = s.inputs := by
  rcases execute_cases w s with ⟨i, -, hexec⟩ | ⟨e, -, hexec⟩
  · exact exec_host_side i s t (hexec.symm.trans h)
  · cases hexec.symm.trans h
    simp

/-! Reset -/

/-- R37, R230: a reset leaves the reset state but for the host's side, which stands. -/
theorem State.hardReset_eq (s : State) : s.hardReset = { State.reset with dataIn := s.dataIn, inputs := s.inputs } := rfl

/-- R230: the step of a reset between commands. -/
theorem step_reset (s : State) (es : List HostEvent) (hin : s.inputs = .reset :: es) :
    step s = .next (s.withInputs es).hardReset := step_event s _ es hin

/-- R231: the step of a reset during a command, whatever the command. -/
theorem step_resetDuring (s : State) (w : CmdWord) (es : List HostEvent) (hin : s.inputs = .resetDuring w :: es) :
    step s = .next (s.withInputs es).hardReset := step_event s _ es hin

/-! The statements -/

/-- Settles O43: the word runs on the value driven before it, and a later drive still waits when the command has ended. -/
theorem dataIsSampledWhenTheCommandStarts : Obligations.DataIsSampledWhenTheCommandStarts := by
  refine ⟨fun s w d es hin => ?_, fun s t w d es hin h => ?_⟩
  · have hdrive : step s = .next ((s.withInputs (.writeCmd w :: es)).withData d) := step_event s _ _ hin
    exact ⟨_, hdrive, step_event _ (.writeCmd w) es rfl⟩
  · rw [step_event s _ _ hin] at h
    obtain ⟨-, hwait⟩ := execute_host_side w _ t h
    exact step_event t (.driveData d) es hwait

/-- Settles O45: both reset events, and INIT, leave `State.hardReset`. -/
theorem resetEqualsInit : Obligations.ResetEqualsInit := by
  refine ⟨fun s es hin => ⟨?_, ?_⟩, fun s w es hin => ?_⟩
  · rw [step_reset s es hin, State.hardReset_eq, State.withInputs_dataIn, State.withInputs_inputs]
  · exact (step_reset s es hin).trans (exec_init _).symm
  · rw [step_resetDuring s w es hin, State.hardReset_eq, State.withInputs_dataIn, State.withInputs_inputs]

end Sys2Proof.Machine
end

section
/-! PROOFS. The command word (30_encoding.md R61 to R68): the encoder and the decoder invert each other on the commands of
the set, and the legal words are the encodings of those 67 commands. -/

namespace Sys2Proof.Machine

/-! The two directions -/

theorem wellFormed_update_iff (len : BitVec 7) : (Instr.update len).WellFormed ↔ len.toNat ≤ 64 :=
  ⟨Nat.le_of_ble_eq_true, Nat.ble_eq_true_of_le⟩

/-- R61, R62: the fields of a command's word are the ones its decoder asks for. -/
theorem decode_encode (i : Instr) (hi : i.WellFormed) : decode (encode i) = .ok i := by
  cases i with
  | init =>
    obtain ⟨hopc, hlen, hrsvd⟩ := Laws.EncodedFields.init
    exact (decode_init_iff _).2 ⟨hrsvd, hopc, hlen⟩
  | update len =>
    obtain ⟨hopc, hlen, hrsvd⟩ := Laws.EncodedFields.update len
    exact (decode_update_iff _ len).2 ⟨hrsvd, hopc, hlen, (wellFormed_update_iff len).1 hi⟩
  | final =>
    obtain ⟨hopc, hlen, hrsvd⟩ := Laws.EncodedFields.final
    exact (decode_final_iff _).2 ⟨hrsvd, hopc, hlen⟩

/-- Settles O3: by the constructor, each of whose words has the fields that its decoder asks for. -/
theorem decodeOfEncodeIsTheCommand : Obligations.DecodeOfEncodeIsTheCommand := decode_encode

/-- R61: a word is its three fields. -/
theorem packWord_fields (w : CmdWord) (hrsvd : rsvdField w = 0) : packWord (opcField w) (lenField w) = w := by
  have hzero := congrArg BitVec.toNat hrsvd
  apply BitVec.eq_of_toNat_eq
  simp only [packWord_toNat, rsvdField, opcField, lenField, BitVec.extractLsb_toNat, Nat.shiftRight_eq_div_pow,
    show (0 : BitVec 21).toNat = 0 from rfl] at hzero ⊢
  omega

theorem encode_of_decode (w : CmdWord) (i : Instr) (h : decode w = .ok i) : encode i = w := by
  cases i with
  | init =>
    obtain ⟨hrsvd, hopc, hlen⟩ := (decode_init_iff w).1 h
    rw [encode, ← hopc, ← hlen, packWord_fields w hrsvd]
  | update len =>
    obtain ⟨hrsvd, hopc, hlen, -⟩ := (decode_update_iff w len).1 h
    rw [encode, ← hopc, ← hlen, packWord_fields w hrsvd]
  | final =>
    obtain ⟨hrsvd, hopc, hlen⟩ := (decode_final_iff w).1 h
    rw [encode, ← hopc, ← hlen, packWord_fields w hrsvd]

/-- Settles O4: the decoder pins all three fields, and a word is its fields. -/
theorem encodeOfDecodeIsTheWord : Obligations.EncodeOfDecodeIsTheWord := fun w i h =>
  ⟨decode_wellFormed w i h, encode_of_decode w i h⟩

/-! The legal words -/

theorem exists_decode_iff_legal (w : CmdWord) : (∃ i, decode w = .ok i) ↔ Legal w :=
  ⟨fun ⟨i, hi⟩ => legal_of_decode w i hi, exists_decode_of_legal w⟩

theorem legal_encode (i : Instr) (hi : i.WellFormed) : Legal (encode i) := legal_of_decode _ i (decode_encode i hi)

/-- R66: the commands of the set, with LEN at each of its values. -/
def commands : List Instr := .init :: .final :: (List.range 65).map fun n => .update (BitVec.ofNat 7 n)

theorem mem_commands_iff (i : Instr) : i ∈ commands ↔ i.WellFormed := by
  cases i with
  | init => exact iff_of_true (by simp [commands]) rfl
  | update len =>
    simp only [commands, List.mem_cons, reduceCtorEq, List.mem_map, List.mem_range, Instr.update.injEq, false_or,
      wellFormed_update_iff]
    constructor
    · rintro ⟨n, hn, rfl⟩
      rw [BitVec.toNat_ofNat]
      omega
    · intro hlen
      exact ⟨len.toNat, by omega, by simp⟩
  | final => exact iff_of_true (by simp [commands]) rfl

theorem commands_nodup : commands.Nodup := by decide

/-- R68: different commands have different words. -/
theorem encode_injOn_wellFormed (i j : Instr) (hi : i.WellFormed) (hj : j.WellFormed) (h : encode i = encode j) : i = j := by
  have hdecode := decode_encode i hi
  rw [h, decode_encode j hj] at hdecode
  exact (Except.ok.inj hdecode).symm

theorem encodedCommands_nodup : (commands.map encode).Nodup :=
  commands_nodup.map_on fun i hi j hj => encode_injOn_wellFormed i j ((mem_commands_iff i).1 hi) ((mem_commands_iff j).1 hj)

theorem mem_encodedCommands_iff_legal (w : CmdWord) : w ∈ commands.map encode ↔ Legal w := by
  rw [← exists_decode_iff_legal, List.mem_map]
  constructor
  · rintro ⟨i, hi, rfl⟩
    exact ⟨i, decode_encode i ((mem_commands_iff i).1 hi)⟩
  · rintro ⟨i, hi⟩
    exact ⟨i, (mem_commands_iff i).2 (decode_wellFormed w i hi), encode_of_decode w i hi⟩

/-- Settles O5: the legal words are the encoded commands of the set, and the others only answer. -/
theorem decoderAcceptsExactlyTheLegalWords : Obligations.DecoderAcceptsExactlyTheLegalWords :=
  ⟨exists_decode_iff_legal, ⟨commands.map encode, encodedCommands_nodup, rfl, mem_encodedCommands_iff_legal⟩,
    fun w s hw => execute_illegal w s hw⟩

/-! The table of words -/

/-- R68: UPDATE's word in the table's own form. -/
theorem encode_update_eq_or (len : BitVec 7) : encode (.update len) = 0x2#32 ||| (len.setWidth 32 <<< 4) := by
  revert len
  decide

/-- Settles O1: UPDATE's formula, the listed words by running the encoder, and legality by decoding the word again. -/
theorem encodedWordsOfTheCommandTable : Obligations.EncodedWordsOfTheCommandTable := by
  refine ⟨rfl, rfl, fun len _ => encode_update_eq_or len, rfl, rfl, rfl, rfl, rfl, rfl, rfl, rfl, legal_encode, ?_⟩
  decide

/-- Settles O2: by running the decoder on each listed word. -/
theorem specWordsDecodeToTheirCommands : Obligations.SpecWordsDecodeToTheirCommands := by
  refine ⟨rfl, rfl, rfl, rfl, rfl, fun w hw => ?_⟩
  simp only [List.mem_cons, List.not_mem_nil, or_false] at hw
  rcases hw with rfl | rfl | rfl | rfl | rfl | rfl | rfl | rfl | rfl <;> exact ⟨_, rfl⟩

end Sys2Proof.Machine
end

section
/-! PROOFS. The invariants of a session (10_state.md R36; 43_session_commands.md R168): what every step keeps, first of the
state alone, then of the message that the session has accepted. -/

namespace Sys2Proof.Machine

/-! What a step can do -/

/-- Everything a step that answers can do: write the host's side only, reset, or run a command word. -/
theorem step_cases (s t : State) (h : step s = .next t) :
    (∃ d es, t = (s.withData d).withInputs es) ∨
    (∃ es, t = (s.withInputs es).hardReset) ∨
    (∃ w es, s.inputs = .writeCmd w :: es ∧ execute w (s.withInputs es) = .next t) := by
  by_cases hcmd : ∃ w es, s.inputs = .writeCmd w :: es
  · obtain ⟨w, es, hin⟩ := hcmd
    rw [step_event s _ es hin] at h
    exact .inr (.inr ⟨w, es, hin, h⟩)
  by_cases hreset : ∃ es, s.inputs = .reset :: es
  · obtain ⟨es, hin⟩ := hreset
    rw [step_reset s es hin] at h
    cases h
    exact .inr (.inl ⟨es, rfl⟩)
  by_cases hduring : ∃ w es, s.inputs = .resetDuring w :: es
  · obtain ⟨w, es, hin⟩ := hduring
    rw [step_resetDuring s w es hin] at h
    cases h
    exact .inr (.inl ⟨es, rfl⟩)
  · exact .inl (step_other_event s t h (fun w es hin => hcmd ⟨w, es, hin⟩) (fun es hin => hreset ⟨es, hin⟩)
      (fun w es hin => hduring ⟨w, es, hin⟩))

/-! R36 points 1 to 3: what the state alone shows -/

theorem inv_hardReset (s : State) : s.hardReset.Inv := ⟨Nat.zero_le _, fun _ => rfl, fun _ => rfl⟩

/-- R133: counting whole blocks keeps CNT a multiple of 512. -/
theorem cntAdd_blocks_mod (c : Count) (k : Nat) (hc : c.toNat % 512 = 0) : (cntAdd c (64 * k)).toNat % 512 = 0 := by
  rw [cntAdd_toNat]
  omega

theorem State.Inv.afterUpdate {s : State} (hinv : s.Inv) (len : BitVec 7) (hfin : s.fin = .active) :
    (s.afterUpdate len).Inv := by
  obtain ⟨-, -, hcnt⟩ := hinv
  refine ⟨?_, fun hclosed => ?_, fun _ => cntAdd_blocks_mod s.cnt _ (hcnt hfin)⟩
  · simp only [State.afterUpdate_buf, List.length_drop, List.length_append, dataBytes_length]
    omega
  · simp [hfin] at hclosed

theorem inv_afterFinal (s : State) : s.afterFinal.Inv := ⟨Nat.zero_le _, fun _ => rfl, by simp⟩

theorem State.Inv.exec {s t : State} (hinv : s.Inv) (i : Instr) (h : exec i s = .next t) : t.Inv := by
  rcases exec_cases i s t h with ⟨-, rfl⟩ | ⟨-, -, r, rfl⟩ | ⟨len, -, -, rfl⟩ | ⟨len, -, -, hfin, rfl⟩ | ⟨-, -, -, rfl⟩
  · exact inv_hardReset s
  · exact hinv
  · exact hinv
  · exact hinv.afterUpdate len hfin
  · exact inv_afterFinal s

/-- Settles O48: only a command that completes writes the session, and each of the three keeps the invariant. -/
theorem stepKeepsTheInvariant : Obligations.StepKeepsTheInvariant := by
  intro s t hinv h
  rcases step_cases s t h with ⟨d, es, rfl⟩ | ⟨es, rfl⟩ | ⟨w, es, -, hw⟩
  · exact hinv
  · exact inv_hardReset _
  · have hinv' : (s.withInputs es).Inv := hinv
    rcases execute_cases w (s.withInputs es) with ⟨i, -, hexec⟩ | ⟨e, -, hexec⟩
    · exact hinv'.exec i (hexec.symm.trans hw)
    · cases hexec.symm.trans hw
      exact hinv

/-- Settles O47: the reset state is what a reset leaves. -/
theorem invariantHoldsAtReset : Obligations.InvariantHoldsAtReset := inv_hardReset State.reset

/-! R168: more bytes behind a message -/

/-- The full blocks of a message leave its leftover, and any bytes behind it. -/
theorem drop_numFull_append (m x : List Byte) : (m ++ x).drop (64 * numFull m) = leftover m ++ x :=
  List.drop_append_of_le_length (Nat.mul_div_le m.length 64)

theorem numFull_append (m x : List Byte) :
    numFull (m ++ x) = numFull m + ((leftover m).length + x.length) / 64 := by
  rw [leftover_length, numFull, numFull, List.length_append]
  omega

theorem fullBlocks_numFull_append (m x : List Byte) :
    fullBlocks (numFull (m ++ x)) (m ++ x) =
      fullBlocks (numFull m) m ++ fullBlocks (((leftover m).length + x.length) / 64) (leftover m ++ x) := by
  have hfull : 64 * numFull m ≤ m.length := Nat.mul_div_le m.length 64
  rw [numFull_append, fullBlocks_add, drop_numFull_append, fullBlocks_append_right _ _ _ hfull]

theorem leftover_append (m x : List Byte) :
    leftover (m ++ x) = (leftover m ++ x).drop (64 * (((leftover m).length + x.length) / 64)) := by
  rw [← drop_numFull_append m x, List.drop_drop, ← Nat.mul_add, ← numFull_append]
  rfl

theorem chainState_append (m x : List Byte) :
    chainState (m ++ x) =
      compressAll (chainState m) (fullBlocks (((leftover m).length + x.length) / 64) (leftover m ++ x)) := by
  rw [chainState, fullBlocks_numFull_append, compressAll_append, chainState]

/-! R36 points 3 to 5: what the accepted message determines -/

/-- R162: an Active UPDATE accepts its bytes. -/
theorem State.Represents.afterUpdate {s : State} {m : List Byte} (hm : s.Represents m) (len : BitVec 7)
    (hfin : s.fin = .active) (hlen : len.toNat ≤ Config.maxChunk) :
    (s.afterUpdate len).Represents (m ++ dataBytes s.dataIn len.toNat) := by
  obtain ⟨hds, hcnt, hbuf⟩ := (represents_active_iff s m hfin).1 hm
  refine (represents_active_iff (s.afterUpdate len) _ hfin).2 ⟨?_, ?_, ?_⟩
  · rw [State.afterUpdate_ds, blocksOf_update_active len s hfin hlen, hds, hbuf, chainState_append, dataBytes_length]
  · rw [State.afterUpdate_cnt, hcnt, hbuf, numFull_append, dataBytes_length, cntAdd, ← BitVec.ofNat_add]
    congr 1
    omega
  · rw [State.afterUpdate_buf, hbuf, leftover_append, dataBytes_length]

theorem represents_hardReset (s : State) : s.hardReset.Represents [] :=
  represents_of_short _ [] (by decide) rfl rfl rfl rfl

/-- Settles O49: the reset state is what a reset leaves. -/
theorem resetRepresentsTheEmptyMessage : Obligations.ResetRepresentsTheEmptyMessage := represents_hardReset State.reset

theorem State.Represents.execute {s t : State} {m : List Byte} (hm : s.Represents m) (w : CmdWord)
    (h : execute w s = .next t) : t.Represents (messageAfterCommand w s m) := by
  rcases execute_cases w s with ⟨i, hi, hexec⟩ | ⟨e, he, hexec⟩
  · rcases exec_cases i s t (hexec.symm.trans h) with ⟨rfl, rfl⟩ | ⟨hinit, hfin, r, rfl⟩ | ⟨len, rfl, hlen, rfl⟩ |
      ⟨len, rfl, hlen, hfin, rfl⟩ | ⟨rfl, hfin, -, rfl⟩
    · simpa only [messageAfterCommand, hi] using represents_hardReset s
    · have hsame : messageAfterCommand w s m = m := by
        cases i with
        | init => exact absurd rfl hinit
        | update len => simp only [messageAfterCommand, hi, hfin]
        | final => simp only [messageAfterCommand, hi]
      rw [hsame]
      exact hm
    · have hmax := (wellFormed_update_iff len).1 (decode_wellFormed w _ hi)
      exact absurd hmax (Nat.not_le.2 hlen)
    · simpa only [messageAfterCommand, hi, hfin] using hm.afterUpdate len hfin hlen
    · simpa only [messageAfterCommand, hi] using hm.afterFinal hfin
  · cases hexec.symm.trans h
    rw [messageAfterCommand, he]
    exact hm

/-- Settles O50: by the event that stands first; the commands that write the session accept, drop or close a message. -/
theorem stepKeepsTheSessionMessage : Obligations.StepKeepsTheSessionMessage := by
  intro s t m hm h
  cases hin : s.inputs with
  | nil =>
    rw [step_idle s hin] at h
    cases h
    rw [messageAfter, hin]
    exact hm
  | cons e es =>
    rw [step_event s e es hin] at h
    cases e with
    | writeCmd w =>
      have hm' : (s.withInputs es).Represents m := hm
      rw [messageAfter, hin]
      exact hm'.execute w h
    | reset =>
      cases h
      rw [messageAfter, hin]
      exact represents_hardReset _
    | resetDuring w =>
      cases h
      rw [messageAfter, hin]
      exact represents_hardReset _
    | driveData d =>
      cases h
      rw [messageAfter, hin]
      exact hm
    | readPort p =>
      cases h
      rw [messageAfter, hin]
      exact hm
    | writeCmdBusy w => cases h

end Sys2Proof.Machine
end

section
/-! PROOFS. The BlockCompressor (40_block_compressor.md; 00_scope.md R12): mixing functions and rotation bit by bit, the round
tables, and the schedule of named variables, which holds the working tuple in rotated roles. -/

namespace Sys2Proof.Machine

/-! Mixing functions (R102 to R104) -/

theorem mixF_bit (x y z : Word) (j : Nat) (hj : j < 32) :
    (mixF x y z).getLsbD j = if x.getLsbD j then y.getLsbD j else z.getLsbD j := by
  simp only [mixF, BitVec.getLsbD_or, BitVec.getLsbD_and, BitVec.getLsbD_not]
  cases x.getLsbD j <;> simp [hj]

theorem mixG_bit (x y z : Word) (j : Nat) :
    (mixG x y z).getLsbD j = decide (2 ≤ (x.getLsbD j).toNat + (y.getLsbD j).toNat + (z.getLsbD j).toNat) := by
  cases hx : x.getLsbD j <;> cases hy : y.getLsbD j <;> cases hz : z.getLsbD j <;> simp [mixG, hx, hy, hz]

theorem mixH_bit (x y z : Word) (j : Nat) :
    (mixH x y z).getLsbD j =
      decide (((x.getLsbD j).toNat + (y.getLsbD j).toNat + (z.getLsbD j).toNat) % 2 = 1) := by
  cases hx : x.getLsbD j <;> cases hy : y.getLsbD j <;> cases hz : z.getLsbD j <;> simp [mixH, hx, hy, hz]

theorem mixF_ones (y z : Word) : mixF 0xFFFFFFFF y z = y := by
  have hones : (0xFFFFFFFF : Word) = BitVec.allOnes 32 := rfl
  rw [mixF, hones, BitVec.allOnes_and, BitVec.not_allOnes, BitVec.zero_and, BitVec.or_zero]

theorem mixF_zero (y z : Word) : mixF 0 y z = z := by
  have hzero : (0 : Word) = 0#32 := rfl
  rw [mixF, hzero, BitVec.zero_and, BitVec.not_zero, BitVec.allOnes_and, BitVec.zero_or]

theorem mixG_same (x z : Word) : mixG x x z = x := by
  apply BitVec.eq_of_getLsbD_eq
  intro j _
  rw [mixG_bit]
  cases x.getLsbD j <;> cases z.getLsbD j <;> rfl

theorem mixG_complement (x z : Word) : mixG x (~~~x) z = z := by
  apply BitVec.eq_of_getLsbD_eq
  intro j hj
  rw [mixG_bit, BitVec.getLsbD_not]
  cases x.getLsbD j <;> cases z.getLsbD j <;> simp [hj]

theorem mixH_same (x z : Word) : mixH x x z = z := by simp [mixH]

/-- Settles O9: the bits by the truth table of one bit, the corner cases from the bits, the examples by running them. -/
theorem mixingFunctionsBitByBit : Obligations.MixingFunctionsBitByBit :=
  ⟨fun _ _ _ => ⟨rfl, rfl, rfl⟩, fun x y z j hj => ⟨mixF_bit x y z j hj, mixG_bit x y z j, mixH_bit x y z j⟩,
    fun y z => ⟨mixF_ones y z, mixF_zero y z⟩, fun x z => ⟨mixG_same x z, mixG_complement x z, mixH_same x z⟩,
    by decide, by decide, by decide⟩

/-! Rotation (R12) and round tables (R105 to R107) -/

/-- R12: a bit moves up by the amount, and re-enters at the bottom when it leaves at the top. -/
theorem rotl32_bit (v : Word) (s j : Nat) (hs : s < 32) (hj : j < 32) :
    (rotl32 v s).getLsbD ((j + s) % 32) = v.getLsbD j := by
  simp only [rotl32, BitVec.getLsbD_or, BitVec.getLsbD_shiftLeft, BitVec.getLsbD_ushiftRight]
  by_cases htop : j + s < 32
  · have hout : v.getLsbD (32 - s + (j + s)) = false := BitVec.getLsbD_of_ge v _ (by omega)
    simp [Nat.mod_eq_of_lt htop, htop, hout]
  · have hmod : (j + s) % 32 = j + s - 32 := by omega
    have hlow : j + s - 32 < s := by omega
    have hsource : 32 - s + (j + s - 32) = j := by omega
    simp [hmod, hlow, hsource]

theorem shiftAmount_mod (r : Round) (j : Nat) : shiftAmount r (j % 4) = shiftAmount r j := by
  rw [shiftAmount, shiftAmount, Nat.mod_mod]

theorem shiftAmount_mem (r : Round) (j : Nat) : shiftAmount r j ∈ [3, 5, 7, 9, 11, 13, 15, 19] := by
  have hcycle : ∀ k < 4, shiftAmount r k ∈ [3, 5, 7, 9, 11, 13, 15, 19] := by cases r <;> decide
  rw [← shiftAmount_mod]
  exact hcycle _ (Nat.mod_lt j (by decide))

/-- Settles O10: every bit by whether it leaves at the top, and the amounts by one cycle of each round. -/
theorem rotationsAreCircular : Obligations.RotationsAreCircular :=
  ⟨fun v s _ hs => ⟨rfl, fun j hj => rotl32_bit v s j hs hj⟩, shiftAmount_mem⟩

/-- Settles O11: the floors by squaring. -/
theorem roundConstants : Obligations.RoundConstants := by
  refine ⟨rfl, rfl, rfl, ?_⟩
  decide

/-- R106: each word order takes every word once. -/
theorem wordOrder_perm (r : Round) : ((List.range 16).map (wordIndex r)).Perm (List.range 16) := by
  cases r <;> decide

/-- Settles O12: the tables by reading them out, and the step by its definition. -/
theorem roundTables : Obligations.RoundTables := by
  refine ⟨rfl, rfl, rfl, wordOrder_perm, rfl, rfl, rfl, fun r j => ?_, fun _ _ _ _ => rfl⟩
  rw [← shiftAmount_mod, Nat.add_mod_right, shiftAmount_mod]

/-! Steps, rounds and the named schedule (R108 to R112) -/

/-- Settles O13: the step is its definition, and R108's example runs. -/
theorem stepRotatesTheRoles : Obligations.StepRotatesTheRoles := by
  refine ⟨fun _ _ _ _ _ _ _ => rfl, rfl, rfl, rfl, ?_⟩
  decide +kernel

/-- R110: 48 steps one after the other are the three rounds one after the other. -/
theorem mixing_eq_foldl_steps (x : List Word) (t : DigestState) :
    mixing x t =
      ([Round.one, .two, .three].flatMap fun r => (List.range 16).map fun j => (r, j)).foldl
        (fun u rj => mixStep rj.1 x u rj.2) t := by
  rw [mixing, List.foldl_flatMap]
  simp only [List.foldl_map]
  rfl

/-- R108, R109: the working tuple `(a, b, c, d)` after `k` steps, in terms of the variables that the schedule names. -/
def DigestState.roles (k : Nat) (t : DigestState) : DigestState :=
  match k % 4 with
  | 0 => t
  | 1 => ⟨t.d, t.a, t.b, t.c⟩
  | 2 => ⟨t.c, t.d, t.a, t.b⟩
  | _ => ⟨t.b, t.c, t.d, t.a⟩

/-- R109: the schedule's row of step `j` of a round. -/
def scheduleRow (r : Round) (j : Nat) : ScheduleRow := ⟨r, wordIndex r j, shiftAmount r j⟩

/-- R109, R112: a step on the working tuple is an in-place update of the variable whose turn it is. -/
theorem mixStep_roles (r : Round) (x : List Word) (t : DigestState) (k j : Nat) :
    mixStep r x (t.roles k) j = (namedStep x t k (scheduleRow r j)).roles (k + 1) := by
  have hturn : k % 4 = 0 ∧ (k + 1) % 4 = 1 ∨ k % 4 = 1 ∧ (k + 1) % 4 = 2 ∨ k % 4 = 2 ∧ (k + 1) % 4 = 3 ∨
      k % 4 = 3 ∧ (k + 1) % 4 = 0 := by omega
  rcases hturn with ⟨hk, hk'⟩ | ⟨hk, hk'⟩ | ⟨hk, hk'⟩ | ⟨hk, hk'⟩
  all_goals
    simp only [DigestState.roles, namedStep, hk, hk']
    rfl

/-- R109: steps on the working tuple are the schedule's rows on the named variables. -/
theorem foldl_mixStep_roles (r : Round) (x : List Word) (js : List Nat) (k : Nat) (t : DigestState) :
    js.foldl (mixStep r x) (t.roles k) = (runSchedule x k (js.map (scheduleRow r)) t).roles (k + js.length) := by
  induction js generalizing k t with
  | nil => rfl
  | cons j js ih =>
    rw [List.foldl_cons, mixStep_roles, ih, List.map_cons, runSchedule, List.length_cons, Nat.add_assoc k 1,
      Nat.add_comm 1]

/-- R109: a round that starts with the roles in their first places ends so. -/
theorem mixRound_eq_runSchedule (r : Round) (x : List Word) (t : DigestState) (k : Nat) (hk : k % 4 = 0) :
    mixRound x t r = runSchedule x k ((List.range 16).map (scheduleRow r)) t := by
  have hplace (n : Nat) (u : DigestState) (hn : n % 4 = 0) : u.roles n = u := by simp only [DigestState.roles, hn]
  have hrun := foldl_mixStep_roles r x (List.range 16) k t
  rw [hplace k t hk, hplace _ _ (by rw [List.length_range]; omega)] at hrun
  exact hrun

theorem scheduleOne_eq : scheduleOne = (List.range 16).map (scheduleRow .one) := rfl

theorem scheduleTwo_eq : scheduleTwo = (List.range 16).map (scheduleRow .two) := rfl

theorem scheduleThree_eq : scheduleThree = (List.range 16).map (scheduleRow .three) := rfl

theorem runSchedule_append (x : List Word) (k : Nat) (rows rows' : List ScheduleRow) (t : DigestState) :
    runSchedule x k (rows ++ rows') t = runSchedule x (k + rows.length) rows' (runSchedule x k rows t) := by
  induction rows generalizing k t with
  | nil => rfl
  | cons row rows ih => rw [List.cons_append, runSchedule, ih, runSchedule, List.length_cons, Nat.add_assoc k 1, Nat.add_comm 1]

theorem mixRound_one (x : List Word) (t : DigestState) : mixRound x t .one = runSchedule x 0 scheduleOne t := by
  rw [scheduleOne_eq, mixRound_eq_runSchedule .one x t 0 rfl]

theorem mixRound_two (x : List Word) (t : DigestState) : mixRound x t .two = runSchedule x 16 scheduleTwo t := by
  rw [scheduleTwo_eq, mixRound_eq_runSchedule .two x t 16 rfl]

theorem mixRound_three (x : List Word) (t : DigestState) : mixRound x t .three = runSchedule x 32 scheduleThree t := by
  rw [scheduleThree_eq, mixRound_eq_runSchedule .three x t 32 rfl]

/-- R109, R112: the 48 rows in order are the three rounds. -/
theorem mixing_eq_runSchedule (x : List Word) (t : DigestState) : mixing x t = runSchedule x 0 schedule t := by
  have hone : 0 + scheduleOne.length = 16 := rfl
  have htwo : 0 + (scheduleOne ++ scheduleTwo).length = 32 := rfl
  rw [schedule, runSchedule_append, htwo, runSchedule_append, hone, ← mixRound_one, ← mixRound_two, ← mixRound_three,
    mixing, List.foldl_cons, List.foldl_cons, List.foldl_cons, List.foldl_nil]

/-- Settles O14: step by step the schedule holds the working tuple in rotated roles, which return to their places after four
steps; the examples run. -/
theorem compressIsTheNamedScheduleWithFeedForward : Obligations.CompressIsTheNamedScheduleWithFeedForward := by
  refine ⟨mixing_eq_foldl_steps, by decide +kernel, by decide +kernel,
    fun x t => ⟨mixRound_one x t, mixRound_two x t, mixRound_three x t⟩, fun ds blk => ?_⟩
  rw [compress, mixing_eq_runSchedule]

end Sys2Proof.Machine
end

section
/-! PROOFS. The BitCounter (41_bit_counter.md R131, R133): the ripple of carries, and what each command adds. -/

namespace Sys2Proof.Machine

/-! The byte-serial add -/

theorem bytes_value_cons (c : Byte) (cs : List Byte) :
    Nat.ofDigits 256 ((c :: cs).map BitVec.toNat) = c.toNat + 256 * Nat.ofDigits 256 (cs.map BitVec.toNat) := by
  rw [List.map_cons, Nat.ofDigits_cons]

/-- R131: the carries add up, and the one left after the last byte is lost. -/
theorem rippleAdd_value (cs : List Byte) (carry : Nat) :
    Nat.ofDigits 256 ((rippleAdd cs carry).map BitVec.toNat) =
      (Nat.ofDigits 256 (cs.map BitVec.toNat) + carry) % 256 ^ cs.length := by
  induction cs generalizing carry with
  | nil => simp [rippleAdd, Nat.mod_one]
  | cons c cs ih =>
    rw [rippleAdd, bytes_value_cons, bytes_value_cons, ih, BitVec.toNat_ofNat, List.length_cons, Nat.pow_succ' (m := 256)]
    generalize Nat.ofDigits 256 (cs.map BitVec.toNat) = rest
    have hlow : (c.toNat + 256 * rest + carry) % 256 = (c.toNat + carry) % 256 := by omega
    have hhigh : (c.toNat + 256 * rest + carry) / 256 = rest + (c.toNat + carry) / 256 := by omega
    rw [Nat.mod_mul (a := 256) (x := c.toNat + 256 * rest + carry), hlow, hhigh]

/-- R13: the value of the counter's eight bytes. -/
theorem bytesLe64_value (c : Count) : Nat.ofDigits 256 ((bytesLe64 c).map BitVec.toNat) % 2 ^ 64 = c.toNat := by
  rw [← le64_toNat, le64_bytesLe64]

theorem cntAddSerial_eq_cntAdd (c : Count) (k : Nat) : cntAddSerial c k = cntAdd c k := by
  have hwidth : 256 ^ (bytesLe64 c).length = 2 ^ 64 := by rw [bytesLe64_length]; decide
  apply BitVec.eq_of_toNat_eq
  rw [cntAddSerial, le64_toNat, rippleAdd_value, hwidth, Nat.mod_mod, Nat.add_mod, bytesLe64_value, Nat.add_mod_mod,
    cntAdd_toNat]

/-- Settles O17: both forms add the value of the carry to the value of the bytes, modulo 2^64. -/
theorem serialCounterEqualsWrappingAdd : Obligations.SerialCounterEqualsWrappingAdd := fun c k =>
  ⟨cntAddSerial_eq_cntAdd c k, cntAdd_toNat c k⟩

/-! The commands -/

/-- R160: in the states of R36 every command of the set completes. -/
theorem exec_completes (i : Instr) (s : State) (hinv : s.Inv) (hi : i.WellFormed) : ∃ t, exec i s = .next t := by
  obtain ⟨hbuf, -, -⟩ := hinv
  by_cases h : AddsToFinalized i s
  · exact ⟨_, exec_alreadyFinalized i s hi h⟩
  · obtain ⟨t, ht, -⟩ := exec_answers_ok i s hi hbuf h
    exact ⟨t, ht⟩

/-- Settles O18: the command completes, and its counter is read off the next state that its case gives. -/
theorem commandsAdvanceTheCounter : Obligations.CommandsAdvanceTheCounter := by
  intro s i hinv hi
  obtain ⟨t, ht⟩ := exec_completes i s hinv hi
  refine ⟨t, ht, ?_⟩
  rcases exec_cases i s t ht with ⟨rfl, rfl⟩ | ⟨hinit, hfin, r, rfl⟩ | ⟨len, rfl, hlen, rfl⟩ | ⟨len, rfl, -, hfin, rfl⟩ |
    ⟨rfl, hfin, -, rfl⟩
  · rfl
  · rw [hfin]
    cases i with
    | init => exact absurd rfl hinit
    | update len => rfl
    | final => rfl
  · exact absurd ((wellFormed_update_iff len).1 hi) (Nat.not_le.2 hlen)
  · rw [hfin, State.afterUpdate_cnt, cntAdd, ← Nat.mul_assoc]
  · rw [hfin, State.afterFinal_cnt, cntAdd]

end Sys2Proof.Machine
end

section
/-! PROOFS. The commands one by one (42_padding_finalizer.md R142; 43_session_commands.md R160 to R169; 20_memory.md R47):
what the two working commands leave, what a second execution adds, and what a command reads. -/

namespace Sys2Proof.Machine

/-! One padding block (R142) -/

/-- R142: below the length field the single block is the first padding block. -/
theorem onePadBlock_getD_low (buf : List Byte) (l : Count) (j : Nat) (hj : j < 56) :
    ((firstPadBlock buf).take 56 ++ bytesLe64 l).getD j 0 = (firstPadBlock buf).getD j 0 := by
  have hlow : j < ((firstPadBlock buf).take 56).length := by simp; omega
  rw [List.getD_append _ _ _ _ hlow, List.getD_eq_getElem?_getD, List.getElem?_take_of_lt hj, List.getD_eq_getElem?_getD]

/-- R142: the length field stands at offset 56. -/
theorem onePadBlock_getD_length (buf : List Byte) (l : Count) (k : Nat) :
    ((firstPadBlock buf).take 56 ++ bytesLe64 l).getD (56 + k) 0 = (bytesLe64 l).getD k 0 := by
  have h56 : ((firstPadBlock buf).take 56).length = 56 := by simp; omega
  rw [List.getD_append_right _ _ _ _ (by omega), h56, Nat.add_sub_cancel_left]

/-- Settles O21: up to offset 56 the block is that of O20, and from there it is the length field. -/
theorem oneBlockPaddingLayout : Obligations.OneBlockPaddingLayout := by
  intro buf l hbuf
  have hpad := padBlocks_one buf l hbuf
  refine ⟨_, hpad, padBlocks_size buf l (by omega) _ (by simp [hpad]), fun j hj => ?_, ?_, fun j hj hj' => ?_, fun k hk => ?_⟩
  · rw [onePadBlock_getD_low buf l j (by omega), firstPadBlock_getD_message buf j hj]
  · rw [onePadBlock_getD_low buf l _ (by omega), firstPadBlock_getD_marker]
  · rw [onePadBlock_getD_low buf l j hj', firstPadBlock_getD_zero buf j hj]
  · rw [onePadBlock_getD_length, bytesLe64_getD l k hk, countByte]

/-! UPDATE of an Active session (R162) -/

/-- R162 in the states of R36: an UPDATE that completes no block appends its bytes. -/
theorem State.afterUpdate_of_no_block (s : State) (len : BitVec 7) (hfin : s.fin = .active)
    (hlen : len.toNat ≤ Config.maxChunk) (hnone : (s.buf.length + len.toNat) / 64 = 0) :
    s.afterUpdate len = { s with buf := s.buf ++ dataBytes s.dataIn len.toNat, resp := .ok } := by
  have hcount : cntAdd s.cnt 0 = s.cnt := BitVec.add_zero s.cnt
  rw [State.afterUpdate, blocksOf_update_active len s hfin hlen, hnone, fullBlocks, compressAll_nil, Nat.mul_zero,
    List.drop_zero, hcount, State.withDs, State.withCnt, State.withBuf, State.respond]

/-- R162: an UPDATE of no byte only answers. -/
theorem exec_update_zero_active (s : State) (hfin : s.fin = .active) (hbuf : s.buf.length ≤ 63) :
    exec (.update 0) s = .next (s.respond .ok) := by
  have hzero : (0 : BitVec 7).toNat = 0 := rfl
  have hnone : dataBytes s.dataIn 0 = [] := rfl
  rw [exec_update_active 0 s hfin (by decide), State.afterUpdate_of_no_block s 0 hfin (by decide) (by omega), hzero, hnone,
    List.append_nil, State.respond]

/-- Settles O27: with no block complete the bytes are appended, with one complete the loop turns once. -/
theorem activeUpdateAppendsAndCompresses : Obligations.ActiveUpdateAppendsAndCompresses := by
  intro s len hfin hbuf hlen data
  have hdata : data.length = s.buf.length + len.toNat := by rw [List.length_append, dataBytes_length]
  refine ⟨?_, dataBytes_length _ _, fun k hk => ?_, by omega, fun hshort => ?_, fun hfull => ?_,
    fun h64 => List.drop_eq_nil_of_le (by omega), fun hzero => ?_⟩
  · rw [← encode_update_eq_or, decode_encode _ ((wellFormed_update_iff len).2 hlen)]
  · rw [dataBytes_getD _ _ _ hk, dataByte]
  · rw [exec_update_active len s hfin hlen, State.afterUpdate_of_no_block s len hfin hlen (by omega)]
  · rw [exec_update_active len s hfin hlen, State.afterUpdate_of_block_completed s len hfin hlen (by omega)]
  · rw [hzero]
    exact exec_update_zero_active s hfin hbuf

/-- Settles O29: the state that `exec_update_active` names, its blocks written out. -/
theorem updateRunsItsLoopInEveryState : Obligations.UpdateRunsItsLoopInEveryState := by
  intro s len hfin hlen data k
  have hk : k = (s.buf.length + len.toNat) / 64 := by rw [← dataBytes_length s.dataIn len.toNat, ← List.length_append]
  rw [exec_update_active len s hfin hlen, State.afterUpdate, blocksOf_update_active len s hfin hlen, ← hk]
  rfl

/-- Settles O34: no byte is appended while Active, and a Finalized session only answers. -/
theorem emptyUpdateIsANop : Obligations.EmptyUpdateIsANop := by
  refine ⟨rfl, fun s hinv => ?_⟩
  obtain ⟨hbuf, -, -⟩ := hinv
  rcases SessionStatus.active_or_finalized s.fin with hfin | hfin
  · exact exec_update_zero_active s hfin hbuf
  · exact exec_update_finalized 0 s hfin (by decide)

/-! FINAL (R164, R165) -/

/-- Settles O31: the command only answers, so DS stands. -/
theorem finalizedFinalIsIdempotent : Obligations.FinalizedFinalIsIdempotent := by
  refine fun s hfin => ⟨exec_final_finalized s hfin, fun t ht => ?_⟩
  cases (exec_final_finalized s hfin).symm.trans ht
  rfl

/-- Settles O32: the first padding block is no whole block. -/
theorem finalOfAnOversizedBufferFaults : Obligations.FinalOfAnOversizedBufferFaults := exec_final_oversized

/-! A command executed twice (R47) -/

/-- R161, R164, R165: after any command but an UPDATE, the same command changes nothing. -/
theorem exec_idempotent (i : Instr) (s t : State) (hi : ∀ len, i ≠ .update len) (h : exec i s = .next t) :
    exec i t = .next t := by
  rcases exec_cases i s t h with ⟨rfl, rfl⟩ | ⟨hinit, hfin, r, rfl⟩ | ⟨len, rfl, -⟩ | ⟨len, rfl, -⟩ | ⟨rfl, -, -, rfl⟩
  · rfl
  · cases i with
    | init => exact absurd rfl hinit
    | update len => exact absurd rfl (hi len)
    | final =>
      rw [exec_final_finalized s hfin] at h
      cases h
      exact exec_final_finalized _ hfin
  · exact absurd rfl (hi len)
  · exact absurd rfl (hi len)
  · exact exec_final_finalized _ rfl

/-- R47, R162: an UPDATE of at least one byte leaves another session than it found: another count of pending bytes, or, for 64
bytes, another counter. -/
theorem State.afterUpdate_ne (s : State) (len : BitVec 7) (hpos : 1 ≤ len.toNat) (hlen : len.toNat ≤ 64) :
    s.afterUpdate len ≠ s := by
  intro hsame
  have hpending := congrArg (·.buf.length) hsame
  simp only [State.afterUpdate_buf, List.length_drop, List.length_append, dataBytes_length] at hpending
  have hcount := congrArg (·.cnt.toNat) hsame
  simp only [State.afterUpdate_cnt, cntAdd_toNat] at hcount
  omega

/-- Settles O33: a word other than an UPDATE answers the same from the state it leaves, and an UPDATE that adds bytes moves
the session on each time. -/
theorem onlyUpdateIsNotIdempotent : Obligations.OnlyUpdateIsNotIdempotent := by
  refine ⟨fun s w hinv hw => ?_, fun s w len hinv hfin hw hpos => ?_⟩
  · rcases execute_cases w s with ⟨i, hi, hexec⟩ | ⟨e, he, hexec⟩
    · obtain ⟨t, ht⟩ := exec_completes i s hinv (decode_wellFormed w i hi)
      have hnot (len : BitVec 7) : i ≠ .update len := by
        rintro rfl
        exact hw len hi
      exact ⟨t, hexec.trans ht, (execute_decoded w i t hi).trans (exec_idempotent i s t hnot ht)⟩
    · exact ⟨_, hexec, execute_refused w e _ he⟩
  · have hlen := (wellFormed_update_iff len).1 (decode_wellFormed w _ hw)
    refine ⟨s.afterUpdate len, (s.afterUpdate len).afterUpdate len, ?_, ?_, State.afterUpdate_ne _ len hpos hlen⟩
    · rw [execute_decoded w _ s hw, exec_update_active len s hfin hlen]
    · rw [execute_decoded w _ _ hw, exec_update_active len (s.afterUpdate len) hfin hlen]

/-! The blocks of a command (R169) -/

theorem padBlocks_count (buf : List Byte) (l : Count) : (padBlocks buf l).length = if buf.length ≤ 55 then 1 else 2 := by
  unfold padBlocks
  split_ifs <;> rfl

/-- R169: an UPDATE in the states of R36 completes at most one block. -/
theorem update_blocks_le_one (s : State) (len : BitVec 7) (hbuf : s.buf.length ≤ 63) (hlen : len.toNat ≤ 64) :
    (s.buf.length + len.toNat) / 64 ≤ 1 := by omega

theorem blocksOf_count_le_two (i : Instr) (s : State) (hi : i.WellFormed) (hbuf : s.buf.length ≤ 63) :
    (blocksOf i s).length ≤ 2 := by
  rcases SessionStatus.active_or_finalized s.fin with hfin | hfin
  · cases i with
    | init => exact Nat.zero_le 2
    | update len =>
      have hlen := (wellFormed_update_iff len).1 hi
      rw [blocksOf_update_active len s hfin hlen, fullBlocks_count]
      exact (update_blocks_le_one s len hbuf hlen).trans (by decide)
    | final =>
      rw [blocksOf_final_active s hfin, padBlocks_count]
      split_ifs <;> decide
  · rw [blocksOf_finalized i s hfin]
    exact Nat.zero_le 2

/-- Settles O35: a command's DS and the size of its blocks are those of `exec_ds` and `exec_blocks_whole`; the counts are
by command and status. -/
theorem compressionsPerCommand : Obligations.CompressionsPerCommand := by
  refine ⟨fun s i hinv hi => ?_, fun s w hw => ⟨_, execute_illegal w s hw, rfl⟩⟩
  obtain ⟨t, ht⟩ := exec_completes i s hinv hi
  obtain ⟨hbuf, -, -⟩ := hinv
  refine ⟨⟨t, ht, exec_ds i s t ht⟩, exec_blocks_whole i s t ht, ?_, fun len hupdate => ?_, blocksOf_count_le_two i s hi hbuf⟩
  · rcases SessionStatus.active_or_finalized s.fin with hfin | hfin
    · rw [hfin]
      cases i with
      | init => rfl
      | update len => rw [blocksOf_update_active len s hfin ((wellFormed_update_iff len).1 hi), fullBlocks_count]
      | final => rw [blocksOf_final_active s hfin, padBlocks_count]
    · rw [hfin, blocksOf_finalized i s hfin]
      cases i <;> rfl
  · subst hupdate
    exact update_blocks_le_one s len hbuf ((wellFormed_update_iff len).1 hi)

/-! What a command reads (R63) and what it leaves (R29, R50) -/

theorem dataBytes_congr (d e : DataPort) (n : Nat)
    (h : ∀ k, k < n → d.extractLsb' (8 * k) 8 = e.extractLsb' (8 * k) 8) : dataBytes d n = dataBytes e n :=
  List.map_congr_left fun k hk => h k (List.mem_range.1 hk)

/-- R162: the next state of an UPDATE with another value on DATA, when the lanes it reads are the same. -/
theorem State.afterUpdate_withData (s : State) (len : BitVec 7) (d : DataPort) (hfin : s.fin = .active)
    (hlen : len.toNat ≤ Config.maxChunk) (hread : dataBytes d len.toNat = dataBytes s.dataIn len.toNat) :
    (s.withData d).afterUpdate len = (s.afterUpdate len).withData d := by
  rw [State.afterUpdate, blocksOf_update_active len (s.withData d) hfin hlen, State.withData_dataIn, hread,
    State.afterUpdate, blocksOf_update_active len s hfin hlen]
  rfl

theorem State.afterFinal_withData (s : State) (d : DataPort) (hfin : s.fin = .active) :
    (s.withData d).afterFinal = s.afterFinal.withData d := by
  rw [State.afterFinal, blocksOf_final_active (s.withData d) hfin, State.afterFinal, blocksOf_final_active s hfin]
  rfl

/-- R63, R164: FINAL reads no lane. -/
theorem exec_final_withData (s t : State) (d : DataPort) (h : exec .final s = .next t) :
    exec .final (s.withData d) = .next (t.withData d) := by
  rcases SessionStatus.active_or_finalized s.fin with hfin | hfin
  · by_cases hbuf : s.buf.length ≤ 63
    · rw [exec_final_active s hfin hbuf] at h
      cases h
      rw [exec_final_active (s.withData d) hfin hbuf, State.afterFinal_withData s d hfin]
    · rw [exec_final_oversized s hfin (Nat.not_le.1 hbuf)] at h
      cases h
  · rw [exec_final_finalized s hfin] at h
    cases h
    exact exec_final_finalized (s.withData d) hfin

/-- R63, R162, R163: UPDATE reads its own lanes only. -/
theorem exec_update_withData (s t : State) (len : BitVec 7) (d : DataPort)
    (hread : dataBytes d len.toNat = dataBytes s.dataIn len.toNat) (h : exec (.update len) s = .next t) :
    exec (.update len) (s.withData d) = .next (t.withData d) := by
  by_cases hlen : Config.maxChunk < len.toNat
  · rw [exec_update_tooLong len s hlen] at h
    cases h
    exact exec_update_tooLong len (s.withData d) hlen
  rcases SessionStatus.active_or_finalized s.fin with hfin | hfin
  · rw [exec_update_active len s hfin (Nat.not_lt.1 hlen)] at h
    cases h
    rw [exec_update_active len (s.withData d) hfin (Nat.not_lt.1 hlen),
      State.afterUpdate_withData s len d hfin (Nat.not_lt.1 hlen) hread]
  · rw [exec_update_finalized len s hfin (Nat.not_lt.1 hlen)] at h
    cases h
    exact exec_update_finalized len (s.withData d) hfin (Nat.not_lt.1 hlen)

/-- Settles O38: INIT's next state is written without DATA, FINAL's too, and UPDATE's by the lanes it reads. -/
theorem unreadDataLanesDoNotMatter : Obligations.UnreadDataLanesDoNotMatter := by
  refine ⟨fun s t d h => ?_, exec_final_withData, fun s t d len hlanes h =>
    exec_update_withData s t len d (dataBytes_congr d s.dataIn len.toNat hlanes) h⟩
  rw [exec_init] at h
  cases h
  exact exec_init (s.withData d)

/-- Settles O39: a command that completes writes the session and RESP only. -/
theorem commandsLeaveTheHostSideAlone : Obligations.CommandsLeaveTheHostSideAlone := exec_host_side

end Sys2Proof.Machine
end

section
/-! PROOFS. Steps and runs (20_memory.md R50; 70_reset_and_hazards.md R233, R235; 60_exceptions.md R212): the step of a command
word, the reset values, what a run keeps of a session, and several instances. -/

namespace Sys2Proof.Machine

/-! The step of a command word, and reset -/

/-- R160: the step of a word that decodes. -/
theorem step_command (s : State) (w : CmdWord) (es : List HostEvent) (i : Instr) (hin : s.inputs = .writeCmd w :: es)
    (hi : decode w = .ok i) : step s = exec i (s.withInputs es) :=
  (step_event s _ es hin).trans (execute_decoded w i _ hi)

theorem decode_of_tableWord (n w : Nat) (i : Instr) (h : decodeTableWord n w = some i) :
    decode (BitVec.ofNat 32 (w % 2 ^ n)) = .ok i := by
  rw [decodeTableWord] at h
  split at h
  · next j hj =>
    cases h
    exact hj
  · cases h

/-- Settles O41: `withFetchWord` puts a command word first. -/
theorem stepRunsTheDecodedCommand : Obligations.StepRunsTheDecodedCommand :=
  ⟨step_command, fun s w i h => step_command (s.withFetchWord 32 w) _ s.inputs i rfl (decode_of_tableWord 32 w i h)⟩

/-- Settles O44: INIT leaves `State.hardReset`, whose values are those of reset. -/
theorem resetValues : Obligations.ResetValues := by
  refine ⟨rfl, rfl, rfl, rfl, rfl, statusOut_hardReset State.reset, rfl,
    (digestOut_bytes State.reset).trans serialize_iv, fun s t h => ?_⟩
  rw [exec_init] at h
  cases h
  exact ⟨rfl, rfl, rfl, rfl, rfl⟩

/-- Settles O46: delivering that event is the fault. -/
theorem commandWrittenWhileBusyHasNoStep : Obligations.CommandWrittenWhileBusyHasNoStep := fun s _ es hin =>
  step_event s _ es hin

/-! A Finalized session (R165, R235) -/

/-- Whether an event leaves a Finalized session as it is: neither a reset nor an INIT. -/
def HostEvent.KeepsDigest (e : HostEvent) : Prop :=
  e ≠ .reset ∧ (∀ w, e ≠ .resetDuring w) ∧ ∀ w, e = .writeCmd w → decode w ≠ .ok .init

/-- The architectural state of R20 is the same in both states. -/
structure State.SameSession (s t : State) : Prop where
  ds : t.ds = s.ds
  cnt : t.cnt = s.cnt
  buf : t.buf = s.buf
  fin : t.fin = s.fin

theorem State.SameSession.trans {s t u : State} (hst : s.SameSession t) (htu : t.SameSession u) : s.SameSession u :=
  ⟨htu.ds.trans hst.ds, htu.cnt.trans hst.cnt, htu.buf.trans hst.buf, htu.fin.trans hst.fin⟩

/-- R46, R50: a step takes the first event, if there is one. -/
theorem step_inputs (s t : State) (h : step s = .next t) : t.inputs = s.inputs.tail := by
  cases hin : s.inputs with
  | nil =>
    rw [step_idle s hin] at h
    cases h
    exact hin
  | cons e es =>
    rw [step_event s e es hin] at h
    cases e with
    | writeCmd w =>
      obtain ⟨-, hwait⟩ := execute_host_side w _ t h
      exact hwait
    | driveData d => cases h; rfl
    | readPort p => cases h; rfl
    | reset => cases h; rfl
    | resetDuring w => cases h; rfl
    | writeCmdBusy w => cases h

/-- R235: one step of a Finalized session on such an event. -/
theorem step_sameSession (s t : State) (hfin : s.fin = .finalized) (hevents : ∀ e ∈ s.inputs, e.KeepsDigest)
    (h : step s = .next t) : s.SameSession t := by
  by_cases hcmd : ∃ w es, s.inputs = .writeCmd w :: es
  · obtain ⟨w, es, hin⟩ := hcmd
    rw [step_event s _ es hin] at h
    rcases execute_cases w (s.withInputs es) with ⟨i, hi, hexec⟩ | ⟨e, -, hexec⟩
    · obtain ⟨-, -, hinit⟩ := hevents (.writeCmd w) (by simp [hin])
      have hne : i ≠ .init := by
        rintro rfl
        exact hinit w rfl hi
      obtain ⟨r, hr⟩ := exec_finalized i (s.withInputs es) hfin hne
      cases (hexec.trans hr).symm.trans h
      exact ⟨rfl, rfl, rfl, rfl⟩
    · cases hexec.symm.trans h
      exact ⟨rfl, rfl, rfl, rfl⟩
  · have hreset (es : List HostEvent) : s.inputs ≠ .reset :: es := by
      intro hin
      obtain ⟨hne, -, -⟩ := hevents .reset (by simp [hin])
      exact hne rfl
    have hduring (w : CmdWord) (es : List HostEvent) : s.inputs ≠ .resetDuring w :: es := by
      intro hin
      obtain ⟨-, hne, -⟩ := hevents (.resetDuring w) (by simp [hin])
      exact hne w rfl
    obtain ⟨d, es, rfl⟩ := step_other_event s t h (fun w es hin => hcmd ⟨w, es, hin⟩) hreset hduring
    exact ⟨rfl, rfl, rfl, rfl⟩

/-! Runs -/

/-- A run of one more step is the step and then the run. -/
theorem runSteps_succ_iff (n : Nat) (s u : State) :
    runSteps (n + 1) s = .next u ↔ ∃ t, step s = .next t ∧ runSteps n t = .next u := by
  rw [runSteps]
  cases step s with
  | next t => simp
  | fault f => simp
  | refused r => simp

theorem run_sameSession (n : Nat) (s t : State) (hfin : s.fin = .finalized) (hevents : ∀ e ∈ s.inputs, e.KeepsDigest)
    (h : runSteps n s = .next t) : s.SameSession t := by
  induction n generalizing s with
  | zero =>
    cases h
    exact ⟨rfl, rfl, rfl, rfl⟩
  | succ n ih =>
    obtain ⟨u, hstep, hrun⟩ := (runSteps_succ_iff n s t).1 h
    have hsame := step_sameSession s u hfin hevents hstep
    have hevents' : ∀ e ∈ u.inputs, e.KeepsDigest := by
      rw [step_inputs s u hstep]
      exact fun e he => hevents e (List.mem_of_mem_tail he)
    exact hsame.trans (ih u (hsame.fin.trans hfin) hevents' hrun)

/-- Settles O40: by induction on the steps; DIGEST_OUT is a function of DS. -/
theorem finalizedSessionKeepsItsDigest : Obligations.FinalizedSessionKeepsItsDigest := by
  intro n s t hfin hevents h
  have hsame := run_sameSession n s t hfin hevents h
  exact ⟨by rw [State.digestOut, State.digestOut, hsame.ds], hsame.ds, hsame.cnt, hsame.buf, hsame.fin.trans hfin⟩

/-- R36: a run leads to the session of the message it has accepted. -/
theorem run_represents (n : Nat) (s t : State) (m : List Byte) (hm : s.Represents m) (h : runSteps n s = .next t) :
    t.Represents (messageOfRun n s m) := by
  induction n generalizing s m with
  | zero =>
    cases h
    exact hm
  | succ n ih =>
    obtain ⟨u, hstep, hrun⟩ := (runSteps_succ_iff n s t).1 h
    rw [messageOfRun, hstep]
    exact ih u _ (stepKeepsTheSessionMessage s u m hm hstep) hrun

/-- R36 points 1 and 4: what the session of a message holds in BUF. -/
theorem State.Represents.buf_eq {s : State} {m : List Byte} (hm : s.Represents m) (hfin : s.fin = .active) :
    m.length = 64 * (m.length / 64) + s.buf.length ∧ s.buf = m.drop (m.length - s.buf.length) := by
  obtain ⟨-, -, hbuf⟩ := (represents_active_iff s m hfin).1 hm
  have hlength : m.length = 64 * (m.length / 64) + s.buf.length := by
    rw [hbuf, leftover_length]
    omega
  have hstart : m.length - s.buf.length = 64 * (m.length / 64) := by omega
  exact ⟨hlength, by rw [hstart, hbuf, leftover, numFull]⟩

theorem State.Represents.inv {s : State} {m : List Byte} (hm : s.Represents m) : s.Inv := by
  rcases SessionStatus.active_or_finalized s.fin with hfin | hfin
  · obtain ⟨-, hcnt, hbuf⟩ := (represents_active_iff s m hfin).1 hm
    refine ⟨by rw [hbuf, leftover_length]; omega, fun hclosed => ?_, fun _ => ?_⟩
    · cases hfin.symm.trans hclosed
    · rw [hcnt, BitVec.toNat_ofNat]
      omega
  · obtain ⟨-, -, hbuf⟩ := (represents_finalized_iff s m hfin).1 hm
    refine ⟨by rw [hbuf]; exact Nat.zero_le 63, fun _ => hbuf, fun hopen => ?_⟩
    cases hfin.symm.trans hopen

/-- Settles O51: the reset state holds the session of the empty message, and the five points are read off the session of the
message at the end of the run. -/
theorem reachableStatesMeetTheSpecInvariants : Obligations.ReachableStatesMeetTheSpecInvariants := by
  intro n es d t h m
  have hm : t.Represents m := run_represents n _ t [] resetRepresentsTheEmptyMessage h
  obtain ⟨hbuf, hclosed, hcnt⟩ := hm.inv
  refine ⟨hbuf, hclosed, fun hfin => ?_, hm.buf_eq, fun hfin => ?_⟩
  · obtain ⟨hds, hcount, -⟩ := (represents_active_iff t m hfin).1 hm
    exact ⟨hcnt hfin, by rw [hcount, BitVec.toNat_ofNat, numFull], hds⟩
  · obtain ⟨-, hcount, -⟩ := (represents_finalized_iff t m hfin).1 hm
    rw [hcount, bitLength, BitVec.toNat_ofNat]

/-! Several instances (R212) -/

/-- Settles O54: the step replaces the one entry of the list. -/
theorem instancesAreIndependent : Obligations.InstancesAreIndependent := by
  intro xs k t h
  refine ⟨xs.set k t, by rw [stepInstance, h], List.length_set, ?_, fun j hj => ?_⟩
  · exact List.getElem?_set_self k.isLt
  · exact List.getElem?_set_ne hj.symm

end Sys2Proof.Machine
end

section
/-! PROOFS. The assembler (30_encoding.md R63, R68, R70, R72): the bytes of an UPDATE on the DATA lanes, and the chunks of
ABSORB, which are the message's full blocks and its leftover. -/

namespace Sys2Proof.Machine

/-! The bytes of an UPDATE (R63, R70) -/

/-- R63: byte `k` of the sequence stands on lane `k`. -/
theorem dataByte_packLanes (bs : List Byte) (k : Nat) (hk : k < 64) : dataByte (packLanes bs) k = bs.getD k 0 := by
  induction bs generalizing k with
  | nil => simp [packLanes, dataByte]
  | cons b bs ih =>
    cases k with
    | zero =>
      ext i hi
      grind [packLanes, dataByte]
    | succ k =>
      rw [List.getD_cons_succ, ← ih k (by omega)]
      ext i hi
      grind [packLanes, dataByte]

theorem dataBytes_packLanes (bs : List Byte) (hbs : bs.length ≤ 64) : dataBytes (packLanes bs) bs.length = bs := by
  have hlanes (k : Nat) (hk : k ∈ List.range bs.length) : dataByte (packLanes bs) k = bs.getD k 0 :=
    dataByte_packLanes bs k ((List.mem_range.1 hk).trans_le hbs)
  rw [dataBytes, List.map_congr_left hlanes, map_getD_range rfl]

/-- R68: UPDATE's word from a byte count that the assembler takes. -/
theorem encode_update_ofNat (n : Nat) (hn : n ≤ 64) :
    encode (.update (BitVec.ofNat 7 n)) = 0x2#32 ||| (BitVec.ofNat 32 n <<< 4) := by
  have hcount : (BitVec.ofNat 7 n).setWidth 32 = BitVec.ofNat 32 n := by
    apply BitVec.eq_of_toNat_eq
    simp
    omega
  rw [encode_update_eq_or, hcount]

theorem assembleLine_update (bs : List Byte) (hbs : bs.length ≤ 64) :
    assembleLine (.update bs.length bs) = .ok (if bs.length = 0 then issueNop else issueUpdate bs) := by
  rw [assembleLine, if_neg (Nat.not_lt.2 hbs), if_neg (not_not.2 rfl)]
  split_ifs <;> rfl

/-- R70: what the assembler refuses. -/
theorem assembleLine_update_refused (len : Nat) (bs : List Byte) (h : ¬ (bs.length = len ∧ len ≤ 64)) :
    ∃ e, assembleLine (.update len bs) = .error e := by
  by_cases hlen : Config.maxChunk < len
  · exact ⟨_, if_pos hlen⟩
  · have hcount : bs.length ≠ len := fun hcount => h ⟨hcount, Nat.not_lt.1 hlen⟩
    exact ⟨.byteCountMismatch, by rw [assembleLine, if_neg hlen, if_pos hcount]⟩

/-- Settles O55: the line is refused or is the events of one UPDATE, whose lanes read back. -/
theorem assembledUpdateReadsBack : Obligations.AssembledUpdateReadsBack := by
  refine fun len bs => ⟨⟨fun ⟨es, hes⟩ => ?_, ?_⟩, ?_, ?_⟩
  · by_contra h
    obtain ⟨e, he⟩ := assembleLine_update_refused len bs h
    cases hes.symm.trans he
  · rintro ⟨rfl, hbs⟩
    exact ⟨_, assembleLine_update bs hbs⟩
  · rintro rfl hbs hpos
    refine ⟨?_, dataBytes_packLanes bs hbs⟩
    rw [assembleLine_update bs hbs, if_neg (by omega), issueUpdate, issue, encode_update_ofNat bs.length hbs]
  · rintro rfl rfl
    rfl

/-! The chunks of ABSORB (R72) -/

/-- A rest, if there is one, as a last chunk. -/
def restChunk (rest : List Byte) : List (List Byte) := if rest = [] then [] else [rest]

theorem restChunk_flatten (rest : List Byte) : (restChunk rest).flatten = rest := by
  unfold restChunk
  split_ifs with h <;> simp [h]

theorem restChunk_of_length_ne_zero (rest : List Byte) (h : rest.length ≠ 0) : restChunk rest = [rest] :=
  if_neg (by simpa using h)

theorem restChunk_count (rest : List Byte) : (restChunk rest).length = if rest.length = 0 then 0 else 1 := by
  unfold restChunk
  split_ifs <;> simp_all

theorem fullChunks_eq (k : Nat) (m : List Byte) :
    absorbChunks.fullChunks k m = fullBlocks k m ++ restChunk (m.drop (64 * k)) := by
  induction k generalizing m with
  | zero => rfl
  | succ k ih =>
    rw [absorbChunks.fullChunks, ih, fullBlocks, List.cons_append, List.drop_drop, Nat.mul_succ, Nat.add_comm 64]

/-- R72: the chunks of ABSORB are the full blocks and the leftover. -/
theorem absorbChunks_eq (m : List Byte) : absorbChunks m = fullBlocks (m.length / 64) m ++ restChunk (leftover m) :=
  fullChunks_eq (m.length / 64) m

theorem fullBlocks_flatten (k : Nat) (m : List Byte) : (fullBlocks k m).flatten = m.take (64 * k) := by
  induction k generalizing m with
  | zero => rfl
  | succ k ih => rw [fullBlocks, List.flatten_cons, ih, Nat.mul_succ, Nat.add_comm, List.take_add]

theorem absorbChunks_flatten (m : List Byte) : (absorbChunks m).flatten = m := by
  rw [absorbChunks_eq, List.flatten_append, fullBlocks_flatten, restChunk_flatten, leftover, numFull, List.take_append_drop]

theorem absorbChunks_getD_full (m : List Byte) (j : Nat) (hj : j < m.length / 64) :
    ((absorbChunks m).getD j []).length = 64 := by
  have hlow : j < (fullBlocks (m.length / 64) m).length := by rwa [fullBlocks_count]
  rw [absorbChunks_eq, List.getD_append _ _ _ _ hlow, List.getD_eq_getElem _ _ hlow]
  exact fullBlocks_size _ m _ (by omega) (List.getElem_mem hlow)

theorem absorbChunks_getD_rest (m : List Byte) (hrest : m.length % 64 ≠ 0) :
    (absorbChunks m).getD (m.length / 64) [] = leftover m := by
  have hchunk := restChunk_of_length_ne_zero (leftover m) (by rwa [leftover_length])
  rw [absorbChunks_eq, hchunk, List.getD_append_right _ _ _ _ (fullBlocks_count _ m).le, fullBlocks_count, Nat.sub_self,
    List.getD_cons_zero]

/-- Every chunk of ABSORB is one that an UPDATE can carry. -/
theorem absorbChunks_size (m c : List Byte) (hc : c ∈ absorbChunks m) : c.length ≤ 64 := by
  rw [absorbChunks_eq, List.mem_append] at hc
  rcases hc with hc | hc
  · exact (fullBlocks_size _ m c (by omega) hc).le
  · have hrest : c = leftover m := by
      unfold restChunk at hc
      split_ifs at hc <;> simp_all
    rw [hrest, leftover_length]
    omega

/-- Settles O56: sizes and counts are those of the full blocks and of the leftover. -/
theorem absorbChunksCarryTheMessage : Obligations.AbsorbChunksCarryTheMessage := by
  refine ⟨fun m => ⟨absorbChunks_flatten m, ?_, absorbChunks_getD_full m, fun hrest => ?_⟩, rfl, fun m => rfl⟩
  · rw [absorbChunks_eq, List.length_append, fullBlocks_count, restChunk_count, leftover_length]
  · rw [absorbChunks_getD_rest m hrest, leftover_length]

end Sys2Proof.Machine
end

section
/-! PROOFS. The laws of a session (43_session_commands.md R167, R168): INIT, UPDATEs and FINAL issued one after the other run
to the end, and leave the session of the bytes that they carry, however these are cut. -/

namespace Sys2Proof.Machine

/-- Two runs, one after the other. -/
theorem runSteps_add (a b : Nat) (s t u : State) (hst : runSteps a s = .next t) (htu : runSteps b t = .next u) :
    runSteps (a + b) s = .next u := by
  induction a generalizing s with
  | zero =>
    cases hst
    rwa [Nat.zero_add]
  | succ a ih =>
    obtain ⟨v, hstep, hrun⟩ := (runSteps_succ_iff a s t).1 hst
    rw [Nat.add_right_comm]
    exact (runSteps_succ_iff _ s u).2 ⟨v, hstep, ih v hrun⟩

/-- Two lists of events, delivered one after the other. -/
theorem runSteps_append (es fs : List HostEvent) (s t u : State) (hst : runSteps es.length s = .next t)
    (htu : runSteps fs.length t = .next u) : runSteps (es ++ fs).length s = .next u := by
  rw [List.length_append]
  exact runSteps_add _ _ s t u hst htu

/-- R60: one issued command is one step. -/
theorem runSteps_issue (i : Instr) (s t : State) (es : List HostEvent) (hi : i.WellFormed)
    (hin : s.inputs = issue i ++ es) (h : exec i (s.withInputs es) = .next t) :
    runSteps (issue i).length s = .next t :=
  (runSteps_succ_iff 0 s t).2 ⟨t, (step_command s _ es i hin (decode_encode i hi)).trans h, rfl⟩

/-- An Active session that has accepted `m` and answered OK, with the events `es` still to come. -/
structure State.Accepting (s : State) (m : List Byte) (es : List HostEvent) : Prop where
  fin : s.fin = .active
  resp : s.resp = .ok
  inputs : s.inputs = es
  represents : s.Represents m

/-- A Finalized session that has accepted `m` and answered OK, with the events `es` still to come. -/
structure State.Closed (s : State) (m : List Byte) (es : List HostEvent) : Prop where
  fin : s.fin = .finalized
  resp : s.resp = .ok
  inputs : s.inputs = es
  represents : s.Represents m

/-! The three commands as the host issues them -/

/-- R161: INIT, in any state. -/
theorem run_init (s : State) (es : List HostEvent) (hin : s.inputs = issue .init ++ es) :
    ∃ t, runSteps (issue .init).length s = .next t ∧ t.Accepting [] es :=
  ⟨_, runSteps_issue .init s _ es rfl hin (exec_init _), rfl, rfl, rfl, represents_hardReset _⟩

/-- R70: the LEN field of an assembled UPDATE is its byte count. -/
theorem lenOfChunk_toNat (c : List Byte) (hc : c.length ≤ 64) : (BitVec.ofNat 7 c.length).toNat = c.length := by
  rw [BitVec.toNat_ofNat]
  omega

/-- R162: an Active UPDATE whose bytes are on DATA. -/
theorem exec_update_accepts (s : State) (m c : List Byte) (hfin : s.fin = .active) (hm : s.Represents m)
    (hc : c.length ≤ 64) (hdata : s.dataIn = packLanes c) :
    ∃ t, exec (.update (BitVec.ofNat 7 c.length)) s = .next t ∧ t.Accepting (m ++ c) s.inputs := by
  have hlen := lenOfChunk_toNat c hc
  have hmax := hlen.trans_le hc
  have haccepted := hm.afterUpdate _ hfin hmax
  rw [hdata, hlen, dataBytes_packLanes c hc] at haccepted
  exact ⟨_, exec_update_active _ s hfin hmax, hfin, rfl, rfl, haccepted⟩

/-- R60, R162: an UPDATE as the host issues it, its bytes and then its word. -/
theorem run_update (s : State) (m c : List Byte) (es : List HostEvent) (hc : c.length ≤ 64)
    (hs : s.Accepting m (issueUpdate c ++ es)) :
    ∃ t, runSteps (issueUpdate c).length s = .next t ∧ t.Accepting (m ++ c) es := by
  have hdrive := step_event s _ _ hs.inputs
  obtain ⟨t, hexec, ht⟩ := exec_update_accepts ((s.withInputs es).withData (packLanes c)) m c hs.fin hs.represents hc rfl
  have hwf := (wellFormed_update_iff _).2 ((lenOfChunk_toNat c hc).trans_le hc)
  exact ⟨t, (runSteps_succ_iff _ s t).2 ⟨_, hdrive, runSteps_issue _ _ t es hwf rfl hexec⟩, ht⟩

/-- R162: UPDATEs one after the other. -/
theorem run_updates (chunks : List (List Byte)) (s : State) (m : List Byte) (es : List HostEvent)
    (hchunks : ∀ c ∈ chunks, c.length ≤ 64) (hs : s.Accepting m (chunks.flatMap issueUpdate ++ es)) :
    ∃ t, runSteps (chunks.flatMap issueUpdate).length s = .next t ∧ t.Accepting (m ++ chunks.flatten) es := by
  induction chunks generalizing s m with
  | nil => exact ⟨s, rfl, by simpa using hs⟩
  | cons c cs ih =>
    rw [List.flatMap_cons, List.append_assoc] at hs
    obtain ⟨t, hst, ht⟩ := run_update s m c _ (hchunks c List.mem_cons_self) hs
    obtain ⟨u, htu, hu⟩ := ih t (m ++ c) (fun d hd => hchunks d (List.mem_cons_of_mem c hd)) ht
    rw [List.flatMap_cons, List.flatten_cons, ← List.append_assoc]
    exact ⟨u, runSteps_append _ _ s t u hst htu, hu⟩

/-- R168: INIT and then UPDATEs, from any state. -/
theorem run_stream (s : State) (chunks : List (List Byte)) (es : List HostEvent) (hchunks : ∀ c ∈ chunks, c.length ≤ 64)
    (hin : s.inputs = issue .init ++ chunks.flatMap issueUpdate ++ es) :
    ∃ t, runSteps (issue .init ++ chunks.flatMap issueUpdate).length s = .next t ∧ t.Accepting chunks.flatten es := by
  rw [List.append_assoc] at hin
  obtain ⟨t, hst, ht⟩ := run_init s _ hin
  obtain ⟨u, htu, hu⟩ := run_updates chunks t [] es hchunks ht
  exact ⟨u, runSteps_append _ _ s t u hst htu, hu⟩

/-- R164: FINAL. -/
theorem run_final (s : State) (m : List Byte) (es : List HostEvent) (hs : s.Accepting m (issue .final ++ es)) :
    ∃ t, runSteps (issue .final).length s = .next t ∧ t.Closed m es := by
  obtain ⟨hbuf, -, -⟩ := hs.represents.inv
  have hrepresents : (s.withInputs es).Represents m := hs.represents
  exact ⟨_, runSteps_issue .final s _ es rfl hs.inputs (exec_final_active (s.withInputs es) hs.fin hbuf), rfl, rfl, rfl,
    hrepresents.afterFinal hs.fin⟩

/-- R167, R168: a whole session, from any state. -/
theorem run_session (s : State) (chunks : List (List Byte)) (es : List HostEvent) (hchunks : ∀ c ∈ chunks, c.length ≤ 64)
    (hin : s.inputs = issue .init ++ chunks.flatMap issueUpdate ++ issue .final ++ es) :
    ∃ t, runSteps (issue .init ++ chunks.flatMap issueUpdate ++ issue .final).length s = .next t ∧
      t.Closed chunks.flatten es := by
  rw [List.append_assoc] at hin
  obtain ⟨t, hst, ht⟩ := run_stream s chunks _ hchunks hin
  obtain ⟨u, htu, hu⟩ := run_final t _ es ht
  exact ⟨u, runSteps_append _ _ s t u hst htu, hu⟩

/-! The laws -/

/-- R167: MD4 is one fold over the full blocks and the padding. -/
theorem md4_eq_foldl (m : List Byte) :
    md4 m = serialize ((fullBlocks (m.length / 64) m ++
      padBlocks (m.drop (64 * (m.length / 64))) (BitVec.ofNat 64 (8 * m.length))).foldl compress iv) := by
  rw [List.foldl_append]
  rfl

/-- Settles O52: HASH is a session whose chunks are those of ABSORB, and DIGEST_OUT shows its DS. -/
theorem hashComputesTheDigestOfTheMessage : Obligations.HashComputesTheDigestOfTheMessage := by
  refine ⟨fun s m es hin => ?_, md4_eq_foldl⟩
  obtain ⟨t, hrun, ht⟩ := run_session s (absorbChunks m) es (absorbChunks_size m) hin
  have hm := ht.represents
  rw [absorbChunks_flatten] at hm
  obtain ⟨hds, hcnt, -⟩ := (represents_finalized_iff t m ht.fin).1 hm
  exact ⟨t, hrun, ht.fin, by rw [hcnt, bitLength, BitVec.toNat_ofNat], ht.resp, ht.inputs,
    (digestOut_bytes t).trans (congrArg serialize hds)⟩

/-- Settles O53: the session is that of the concatenated chunks, and a Finalized one is fixed by its message. -/
theorem streamingLeavesTheSameSession : Obligations.StreamingLeavesTheSameSession := by
  refine ⟨fun s chunks es hchunks hin => ?_, fun s u cs ds hcs hds hsame hs hu => ?_⟩
  · obtain ⟨t, hrun, ht⟩ := run_stream s chunks es hchunks hin
    obtain ⟨hds, hcnt, hbuf⟩ := (represents_active_iff t _ ht.fin).1 ht.represents
    exact ⟨t, hrun, ht.fin, ht.resp, ht.inputs, hds, by rw [hcnt, BitVec.toNat_ofNat, numFull], hbuf⟩
  · obtain ⟨t, hst, ht⟩ := run_session s cs [] hcs (by rw [hs, List.append_nil])
    obtain ⟨v, huv, hv⟩ := run_session u ds [] hds (by rw [hu, List.append_nil])
    obtain ⟨htds, htcnt, htbuf⟩ := (represents_finalized_iff t _ ht.fin).1 ht.represents
    obtain ⟨hvds, hvcnt, hvbuf⟩ := (represents_finalized_iff v _ hv.fin).1 hv.represents
    rw [← hs] at hst
    rw [← hu] at huv
    refine ⟨t, v, hst, huv, ht.fin, hv.fin, ?_, ?_, ?_⟩
    · rw [State.digestOut, State.digestOut, htds, hvds, hsame]
    · rw [htcnt, hvcnt, hsame]
    · rw [htbuf, hvbuf]

end Sys2Proof.Machine
end
